-- ==== Sys2Proof/Word.lean ====
section
/-! DEFINITION. The word types of the block (00_scope.md section 4): a byte is 8 bits, a register word 32 bits,
a host offset 16 bits. Every value is unsigned; no value of the block is sign-extended. -/

namespace Sys2Proof

/-- An unsigned 8-bit value. -/
abbrev Byte := BitVec 8

/-- An unsigned 32-bit value: one host access, one command word. -/
abbrev Word := BitVec 32

/-- A byte offset of the 64 KiB host register space (20_memory.md R200). -/
abbrev Offset := BitVec 16

/-- An unsigned 16-bit count or length field. -/
abbrev Count := BitVec 16

end Sys2Proof
end

