-- ==== Sys2Proof/Syntax.lean ====
section
/-! DEFINITION. The commands of the block: one constructor per row of spec/opcode_table.json, with the fields
30_encoding.md R302 lets that command use. Every value of `Instr` is well formed: each field has exactly the width
the command word gives it. -/

namespace Sys2Proof

/-- A command (30_encoding.md R301, R302). -/
inductive Instr where
  /-- S_ENCODE (R410); `sub` is CMD.SUB, the frame form. -/
  | sEncode (sub : Bool)
  /-- S_SEND (R412); `long` is CMD.LONG, the settle class. -/
  | sSend (long : Bool)
  /-- S_RECV (R420); `n` is CMD.N, the expected payload length EXP. -/
  | sRecv (n : Count)
  /-- B_ENCODE (R452). -/
  | bEncode
  /-- B_SEND (R460); `long` is CMD.LONG, the settle class. -/
  | bSend (long : Bool)
  /-- B_RECV (R470); `trunc` is CMD.TRUNC and `n` is CMD.N, the requested payload length. -/
  | bRecv (trunc : Bool) (n : Count)
  /-- STUFF (R500). -/
  | stuff
  /-- UNSTUFF (R501). -/
  | unstuff
  /-- CKSUM (R502). -/
  | cksum
  /-- CRC8 (R503). -/
  | crc8
  deriving DecidableEq, Repr

end Sys2Proof
end

