-- ==== Sys2Proof/WellFormed.lean ====
section
/-! DEFINITION. When a command word is well formed (30_encoding.md R323): three checks over the word's fields
(R300). The commands of `Instr` need no check of their own, since their fields have the encoded widths; what can be
ill-formed is a command word, and the block answers such a word with PARAM. -/

namespace Sys2Proof

/-- The fields of a command word (R300). -/
structure CmdFields where
  /-- CMD[3:0]. -/
  op : BitVec 4
  /-- CMD[4]. -/
  long : Bool
  /-- CMD[5]. -/
  sub : Bool
  /-- CMD[6]. -/
  trunc : Bool
  /-- CMD[15:7], which must be 0. -/
  reserved : BitVec 9
  /-- CMD[31:16]. -/
  n : Count
  deriving DecidableEq, Repr

/-- OP is one of the ten values of R301. -/
def CmdFields.opDefined (f : CmdFields) : Bool :=
  f.op ∈ [0x1#4, 0x2#4, 0x3#4, 0x5#4, 0x6#4, 0x7#4, 0x8#4, 0x9#4, 0xA#4, 0xB#4]

/-- CMD[15:7] = 0. -/
def CmdFields.reservedZero (f : CmdFields) : Bool := f.reserved = 0

/-- Every field that the table of R302 marks 0 for this OP is 0: LONG belongs to S_SEND and B_SEND, SUB to
S_ENCODE, TRUNC to B_RECV, N to S_RECV and B_RECV. -/
def CmdFields.unusedZero (f : CmdFields) : Bool :=
  (!f.long || f.op ∈ [0x2#4, 0x6#4]) &&
  (!f.sub || f.op = 0x1#4) &&
  (!f.trunc || f.op = 0x7#4) &&
  (f.n = 0 || f.op ∈ [0x3#4, 0x7#4])

/-- R323: a command word is well formed if and only if all three checks hold. -/
def CmdFields.wellFormed (f : CmdFields) : Bool := f.opDefined && f.reservedZero && f.unusedZero

end Sys2Proof
end

