-- ==== Sys2Proof/Config.lean ====
section
/-! DEFINITION. What an implementation fixes (00_scope.md section 3) and what the environment leaves free
(60_exceptions.md R640, R641; 70_reset_and_hazards.md R704, R721). Every `opaque` constant here has no body: no proof
can see its value, so a theorem holds whatever it is. -/

namespace Sys2Proof

/-- The width of a host access; only `word` is supported (20_memory.md R203). -/
inductive AccessSize where
  | byte
  | half
  | word
  | double
  deriving DecidableEq, Repr, Inhabited

/-- One event of the block's history, with the value the environment supplies (60_exceptions.md R612, R640, R641).
Each step takes one. -/
inductive Input where
  /-- The host reads at an offset. -/
  | hostRead (size : AccessSize) (off : Offset)
  /-- The host writes a value at an offset. -/
  | hostWrite (size : AccessSize) (off : Offset) (v : Word)
  /-- The stream transport accepts the byte S_SEND offers (R414). -/
  | txAccept
  /-- A byte arrives in the stream transport's receive queue (R125). -/
  | rxArrive (b : Byte)
  /-- The byte step of S_RECV: the engine takes the next queued byte (R421). -/
  | rxTake
  /-- The register bus completes the issued write with a status (R461). -/
  | busDone (status : Byte)
  /-- The register bus delivers the data of the issued read (R471). -/
  | busData (d : List Byte)
  /-- One tick of the time base (R631). -/
  | tick
  /-- The reset input (R700). -/
  | reset
  deriving DecidableEq, Repr, Inhabited

/-- The fixed parameters of the block (00_scope.md section 3), each with its constraint in its type. -/
structure Params where
  /-- PB_CAP, 0 to 1018. -/
  pbCap : Fin 1019
  /-- IB_CAP, 0 to 2048. -/
  ibCap : Fin 2049
  /-- RB_CAP - 3; RB_CAP is 3 to 2048. -/
  rbExtra : Fin 2046
  /-- T_RX, the stream read timeout in ticks. -/
  tRx : Nat
  /-- T_SET_S, the short settle delay in ticks. -/
  tSetS : Nat
  /-- T_SET_L - T_SET_S - 1; T_SET_L is greater than T_SET_S (R6). -/
  tSetExtra : Nat
  /-- BUS_DEV_ADDR, the 7-bit register-bus device address. -/
  busDevAddr : BitVec 7
  deriving DecidableEq, Repr

/-- WB_CAP = 12 + 2*PB_CAP (R7). -/
def Params.wbCap (p : Params) : Nat := 12 + 2 * p.pbCap.val

/-- RB_CAP, at least 3 and at most 2048. -/
def Params.rbCap (p : Params) : Nat := 3 + p.rbExtra.val

/-- T_SET_L, greater than T_SET_S (R6). -/
def Params.tSetL (p : Params) : Nat := p.tSetS + 1 + p.tSetExtra

/-- FREE: the implementation's PB_CAP. -/
opaque Config.pbCap : Fin 1019
/-- FREE: the implementation's IB_CAP. -/
opaque Config.ibCap : Fin 2049
/-- FREE: the implementation's RB_CAP - 3. -/
opaque Config.rbExtra : Fin 2046
/-- FREE: the implementation's T_RX. -/
opaque Config.tRx : Nat
/-- FREE: the implementation's T_SET_S. -/
opaque Config.tSetS : Nat
/-- FREE: the implementation's T_SET_L - T_SET_S - 1. -/
opaque Config.tSetExtra : Nat
/-- FREE: the implementation's BUS_DEV_ADDR. -/
opaque Config.busDevAddr : BitVec 7

/-- The parameters of the machine that starts at reset: every one of them free. DESIGN CHOICE, safe: log entry 2. -/
def Config.params : Params :=
  { pbCap := Config.pbCap, ibCap := Config.ibCap, rbExtra := Config.rbExtra, tRx := Config.tRx,
    tSetS := Config.tSetS, tSetExtra := Config.tSetExtra, busDevAddr := Config.busDevAddr }

/-- FREE: the environment's `n`-th input, for the steps at which no input is placed in the state (R641). DESIGN CHOICE, safe: log
entry 1. -/
opaque Config.input : Nat → Input

/-- FREE: the unspecified 32-bit value that a register read returns while BUSY (R721), by epoch and offset. DESIGN
CHOICE, safe: log entry 3. -/
opaque Config.freeWord : Nat → Nat → Word

/-- FREE: the unspecified value of a buffer byte (R704, R721), by epoch and host offset of the byte. DESIGN CHOICE,
safe: log entry 3. -/
opaque Config.freeByte : Nat → Nat → Byte

end Sys2Proof
end

