-- ==== Sys2Proof/Decode.lean ====
section
/-! DEFINITION. The command word's decoder and encoder (30_encoding.md R300 to R302, R323). The decoder is total on
32-bit words and rejects by name; a rejected word is no fault of the machine: writing it to CMD finishes with PARAM. -/

namespace Sys2Proof

/-- Why a word is no command (R323). -/
inductive DecodeError where
  /-- OP is 0, 4 or C to F. -/
  | reservedOp
  /-- CMD[15:7] is not 0. -/
  | reservedBits
  /-- A field that this OP does not use is not 0. -/
  | unusedField
  deriving DecidableEq, Repr

/-- The fields of a command word, each the unsigned value of its bits (R300). -/
def cmdFields (v : Word) : CmdFields :=
  { op := v.extractLsb' 0 4, long := v.getLsbD 4, sub := v.getLsbD 5, trunc := v.getLsbD 6,
    reserved := v.extractLsb' 7 9, n := v.extractLsb' 16 16 }

/-- R323 for a command word. -/
def cmdWellFormed (v : Word) : Bool := (cmdFields v).wellFormed

/-- The instruction `i` if the unused fields `bad` are all 0. -/
def onlyUsed (bad : Bool) (i : Instr) : Except DecodeError Instr :=
  if bad then .error .unusedField else .ok i

/-- The command that fields stand for (R301, R302), or why they stand for none (R323). -/
def decodeFields (f : CmdFields) : Except DecodeError Instr :=
  if f.reserved ≠ 0 then .error .reservedBits
  else if f.op = 0x1 then onlyUsed (f.long || f.trunc || f.n != 0) (.sEncode f.sub)
  else if f.op = 0x2 then onlyUsed (f.sub || f.trunc || f.n != 0) (.sSend f.long)
  else if f.op = 0x3 then onlyUsed (f.long || f.sub || f.trunc) (.sRecv f.n)
  else if f.op = 0x5 then onlyUsed (f.long || f.sub || f.trunc || f.n != 0) .bEncode
  else if f.op = 0x6 then onlyUsed (f.sub || f.trunc || f.n != 0) (.bSend f.long)
  else if f.op = 0x7 then onlyUsed (f.long || f.sub) (.bRecv f.trunc f.n)
  else if f.op = 0x8 then onlyUsed (f.long || f.sub || f.trunc || f.n != 0) .stuff
  else if f.op = 0x9 then onlyUsed (f.long || f.sub || f.trunc || f.n != 0) .unstuff
  else if f.op = 0xA then onlyUsed (f.long || f.sub || f.trunc || f.n != 0) .cksum
  else if f.op = 0xB then onlyUsed (f.long || f.sub || f.trunc || f.n != 0) .crc8
  else .error .reservedOp

/-- The decoder, total on every command word. -/
def decode (v : Word) : Except DecodeError Instr := decodeFields (cmdFields v)

/-- The fields a command is written with; a field it does not use is 0 (R302). -/
def instrFields : Instr → CmdFields
  | .sEncode sub => { op := 0x1, long := false, sub := sub, trunc := false, reserved := 0, n := 0 }
  | .sSend long => { op := 0x2, long := long, sub := false, trunc := false, reserved := 0, n := 0 }
  | .sRecv n => { op := 0x3, long := false, sub := false, trunc := false, reserved := 0, n := n }
  | .bEncode => { op := 0x5, long := false, sub := false, trunc := false, reserved := 0, n := 0 }
  | .bSend long => { op := 0x6, long := long, sub := false, trunc := false, reserved := 0, n := 0 }
  | .bRecv trunc n => { op := 0x7, long := false, sub := false, trunc := trunc, reserved := 0, n := n }
  | .stuff => { op := 0x8, long := false, sub := false, trunc := false, reserved := 0, n := 0 }
  | .unstuff => { op := 0x9, long := false, sub := false, trunc := false, reserved := 0, n := 0 }
  | .cksum => { op := 0xA, long := false, sub := false, trunc := false, reserved := 0, n := 0 }
  | .crc8 => { op := 0xB, long := false, sub := false, trunc := false, reserved := 0, n := 0 }

/-- The word the host assembles from fields: `OP | LONG<<4 | SUB<<5 | TRUNC<<6 | N<<16`, with the reserved bits
between them (R300). -/
def assemble (f : CmdFields) : Word :=
  f.op.setWidth 32 ||| (BitVec.ofBool f.long).setWidth 32 <<< 4 ||| (BitVec.ofBool f.sub).setWidth 32 <<< 5 |||
    (BitVec.ofBool f.trunc).setWidth 32 <<< 6 ||| f.reserved.setWidth 32 <<< 7 ||| f.n.setWidth 32 <<< 16

/-- The encoder: the command word of a command (R300, R330). -/
def encode (i : Instr) : Word := assemble (instrFields i)

/-- The command word of an opcode-table row given by its low `nbits` bits, every bit above them 0. -/
def tableWord (nbits w : Nat) : Word := BitVec.ofNat 32 (w % 2 ^ nbits)

/-- What the decoder reads from an instruction whose bits, numbered as the opcode table numbers them, are `w`. -/
def decodeTableWord (nbits w : Nat) : Option Instr :=
  match decode (tableWord nbits w) with
  | .ok i => some i
  | .error _ => none

end Sys2Proof
end

