-- ==== Sys2Proof/Machine/State.lean ====
section
/-! DEFINITION. The state of the machine as plain data: the block's registers, fields and buffers (10_state.md), the
agents around it that 60_exceptions.md R640 names, and the model's own counters. -/

namespace Sys2Proof.Machine

/-- CTRL.XPORT: the Transport Selection (10_state.md R102). The value 11 is never held. -/
inductive Transport where
  | none
  | stream
  | bus
  deriving DecidableEq, Repr

/-- STATUS.RXST: the reassembly machine's state (R121). -/
inductive RxState where
  | awaitDelim
  | inBody
  | escape
  | done
  | error
  deriving DecidableEq, Repr

/-- STATUS.PHASE: the engine's phase (R120). -/
inductive Phase where
  | idle
  | tx
  | settle
  | rx
  | busWr
  | busRd
  deriving DecidableEq, Repr

/-- RESULT.CLASS (60_exceptions.md R601). `cmdState` belongs to the host protocol and is never written by the block
(R603). -/
inductive ResultClass where
  | ok
  | param
  | dataLen
  | protocol
  | timeout
  | cmdState
  | devStatus
  deriving DecidableEq, Repr

/-- RESULT (R105): the class and the two device fields. -/
structure Result where
  cls : ResultClass
  devCode : BitVec 7
  devErr : Bool
  deriving DecidableEq, Repr

/-- PRIM_OUT (R113). -/
structure PrimOut where
  cnt : BitVec 2
  o0 : Byte
  o1 : Byte
  deriving DecidableEq, Repr

/-- The operand latch (R124). -/
structure Latch where
  op : BitVec 4
  long : Bool
  trunc : Bool
  n : Count
  deriving DecidableEq, Repr

/-- A request the block has handed to the register bus (R460, R470) and that is not yet answered or withdrawn. -/
inductive BusRequest where
  | write (dev : BitVec 7) (bytes : List Byte)
  | read (dev : BitVec 7) (count : Nat)
  deriving DecidableEq, Repr

/-- The bytes of the four buffer windows, each under the host offset of its word (20_memory.md R201), with strictly
rising offsets. An offset that is not listed holds no value: that byte has not been written since reset (70 R704). DESIGN
CHOICE, safe: log entry 6. -/
abbrev Memory := List Host.Cell

/-- The state of the machine. -/
structure State where
  /-- CTRL.XPORT (R102). -/
  xport : Transport
  /-- STATUS.DONE (R103). -/
  done : Bool
  /-- STATUS.REJ (R103). -/
  rej : Bool
  /-- STATUS.RXST (R121). -/
  rxst : RxState
  /-- STATUS.PHASE (R120); STATUS.BUSY is PHASE ≠ IDLE. -/
  phase : Phase
  /-- RESULT (R105). -/
  result : Result
  /-- SCMD.LEAD (R106). -/
  lead : Byte
  /-- SCMD.SUBC (R106). -/
  subc : Byte
  /-- REGADDR.ADDR (R107). -/
  regAddr : BitVec 16
  /-- PB_LEN.LEN (R108). -/
  pbLen : Count
  /-- WB_LEN.LEN (R109). -/
  wbLen : Count
  /-- IB_LEN.LEN (R110). -/
  ibLen : Count
  /-- RB_LEN.LEN (R111). -/
  rbLen : Count
  /-- PRIM_IN.B0 (R112). -/
  primIn0 : Byte
  /-- PRIM_IN.B1 (R112). -/
  primIn1 : Byte
  /-- PRIM_OUT (R113). -/
  primOut : PrimOut
  /-- CHK.VAL (R114). -/
  chk : Byte
  /-- The written bytes of PB, WB, IB and RB (R115 to R118). -/
  mem : Memory
  /-- TMR (R122). -/
  tmr : Nat
  /-- TXI (R123). -/
  txi : Nat
  /-- The operand latch (R124). -/
  latch : Latch
  /-- The request the register bus has not answered yet (R460, R470). -/
  busReq : Option BusRequest
  /-- The stream transport's receive queue, oldest byte first (R125). -/
  rxQueue : List Byte
  /-- The bytes the stream transport has accepted, oldest first (20 R216). -/
  txWire : List Byte
  /-- The value the last host read returned (20 R205). -/
  hostData : Word
  /-- MODEL: the inputs placed for the next steps, in the order in which they happen. -/
  inputs : List Input
  /-- MODEL: how many inputs have been drawn from `Config.input`. -/
  inputCount : Nat
  /-- MODEL: the index of the current draw of unspecified values; it advances at every host write and engine step. -/
  epoch : Nat
  /-- The fixed parameters (00_scope.md R6); no step writes them. -/
  params : Params
  deriving DecidableEq, Repr

/-- Why the machine stops with a fault. -/
inductive Fault where
  /-- Raised by S_ENCODE (form B), B_ENCODE, CKSUM and CRC8 when PB_LEN covers a PB byte the host has not written since
  reset: 70_reset_and_hazards.md R704 says such a command faults in the model. Safe. -/
  | unwrittenPayload
  deriving DecidableEq, Repr

/-- Why a step has no meaning in the model. -/
inductive Refusal where
  /-- Raised by an arm of `exec` whose instruction has no meaning yet (none is left). Safe. -/
  | notModelled (mnemonic : String)
  /-- Raised by a host access that is not a 32-bit access at a multiple of 4: 20_memory.md R203 says a model refuses
  it. Safe. -/
  | unsupportedAccess
  deriving DecidableEq, Repr

/-- What a meaning or a step answers. -/
abbrev Answer := Host.Outcome State Fault Refusal

/-- The machine right after reset (70_reset_and_hazards.md R700, R701; 10_state.md section 6; R711 for the queue and the
bus request). The buffers hold no value; the parameters are free. DESIGN CHOICE, unsafe: the empty `rxQueue` and `txWire`
and the zero `hostData` (log entry 10). -/
def State.reset : State :=
  { xport := .none, done := false, rej := false, rxst := .awaitDelim, phase := .idle,
    result := { cls := .ok, devCode := 0, devErr := false },
    lead := 0, subc := 0, regAddr := 0, pbLen := 0, wbLen := 0, ibLen := 0, rbLen := 0,
    primIn0 := 0, primIn1 := 0, primOut := { cnt := 0, o0 := 0, o1 := 0 }, chk := 0,
    mem := [], tmr := 0, txi := 0, latch := { op := 0, long := false, trunc := false, n := 0 },
    busReq := none, rxQueue := [], txWire := [], hostData := 0, inputs := [], inputCount := 0, epoch := 0,
    params := Config.params }

end Sys2Proof.Machine
end

