-- ==== Sys2Proof/Machine/Flags.lean ====
section
/-! DEFINITION. The flags and the numeric codes of the fields: BUSY, DONE and REJ, and STATUS and RESULT as the words
the host reads (10_state.md R103, R105, R120, R121, R126; 60_exceptions.md R601). -/

namespace Sys2Proof.Machine

/-- STATUS.BUSY is 1 while PHASE is not IDLE (R103). -/
def State.busy (s : State) : Bool := s.phase ≠ .idle

/-- XPORT: 00 none, 01 byte-stream, 10 register-bus (R102). -/
def xportCode : Transport → Word
  | .none => 0
  | .stream => 1
  | .bus => 2

/-- RXST: 0 to 4 (R121). -/
def rxstCode : RxState → Word
  | .awaitDelim => 0
  | .inBody => 1
  | .escape => 2
  | .done => 3
  | .error => 4

/-- PHASE: 0 to 5 (R120). -/
def phaseCode : Phase → Word
  | .idle => 0
  | .tx => 1
  | .settle => 2
  | .rx => 3
  | .busWr => 4
  | .busRd => 5

/-- CLASS: 0 to 6 (R601). -/
def classCode : ResultClass → Word
  | .ok => 0
  | .param => 1
  | .dataLen => 2
  | .protocol => 3
  | .timeout => 4
  | .cmdState => 5
  | .devStatus => 6

/-- One flag as bit 0 of a word. -/
def flagBit (b : Bool) : Word := (BitVec.ofBool b).setWidth 32

/-- STATUS as the host reads it (R103): BUSY | DONE<<1 | REJ<<2 | RXST<<4 | PHASE<<8. -/
def statusWord (s : State) : Word :=
  flagBit s.busy ||| flagBit s.done <<< 1 ||| flagBit s.rej <<< 2 ||| rxstCode s.rxst <<< 4 |||
    phaseCode s.phase <<< 8

/-- RESULT as the host reads it (R105): CLASS | DEVCODE<<8 | DEVERR<<15. -/
def resultWord (r : Result) : Word :=
  classCode r.cls ||| r.devCode.setWidth 32 <<< 8 ||| flagBit r.devErr <<< 15

/-- PRIM_OUT as the host reads it (R113): CNT | O0<<8 | O1<<16. -/
def primOutWord (p : PrimOut) : Word :=
  p.cnt.setWidth 32 ||| p.o0.setWidth 32 <<< 8 ||| p.o1.setWidth 32 <<< 16

/-- DONE is cleared when a command is accepted (R103, R320). -/
def accept (s : State) : State := { s with done := false }

/-- A host write rejected because BUSY = 1: the register keeps its value and REJ is set (R119). -/
def reject (s : State) : State := { s with rej := true }

/-- REJ is write-one-to-clear, by bit 2 of a host write to STATUS (R103). -/
def clearRej (v : Word) (s : State) : State := if v.getLsbD 2 then { s with rej := false } else s

end Sys2Proof.Machine
end

