-- ==== Sys2Proof/Machine/Wire.lean ====
section
/-! DEFINITION. The byte-level functions of the two codecs, all pure: stuffing and unescaping, the stream checksum, the
CRC-8, and the byte-exact layouts of a stream frame and of a register-bus transaction. The literals are the source's
(93_implementation_defined.md U17). -/

namespace Sys2Proof.Machine

/-- DELIM: the frame delimiter. -/
def delim : Byte := 0x7E

/-- ESC: the escape byte. -/
def esc : Byte := 0x7D

/-- ESC_XOR: what an escaped byte is XORed with. -/
def escXor : Byte := 0x20

/-- ADDRESS: the address byte of every outbound frame. -/
def frameAddress : Byte := 0x00

/-- CRC_POLY: the CRC-8 polynomial. -/
def crcPoly : Byte := 0x31

/-- CRC_INIT: the CRC-8 initial value. -/
def crcInit : Byte := 0xFF

/-- The four reserved values that stuffing escapes (R313). -/
def isReserved (b : Byte) : Bool := b = 0x11 || b = 0x13 || b = 0x7D || b = 0x7E

/-- `stuff(b)` (R400): the wire form of one byte. -/
def stuff (b : Byte) : List Byte := if isReserved b then [esc, b ^^^ escXor] else [b]

/-- `stuffall(l)` (R400): the wire forms of the bytes of `l`, concatenated in order. -/
def stuffAll (l : List Byte) : List Byte := l.flatMap stuff

/-- `unescape(c)` (R401): the raw byte for the byte after an escape; `none` is a bad escape. -/
def unescape (c : Byte) : Option Byte :=
  if c = 0x31 || c = 0x33 || c = 0x5D || c = 0x5E then some (c ^^^ escXor) else none

/-- `sum8(l)` (00_scope.md section 4): the sum of the bytes modulo 256. -/
def sum8 (l : List Byte) : Byte := BitVec.ofNat 8 (l.map BitVec.toNat).sum

/-- `cks8(l)` (R402): the complement of the low byte of the sum. -/
def cks8 (l : List Byte) : Byte := ~~~ sum8 l

/-- One bit of the CRC-8 loop (R450). -/
def crcBit (c : Byte) : Byte := if c.getLsbD 7 then (c <<< 1) ^^^ crcPoly else c <<< 1

/-- One byte of the CRC-8 loop: XOR it in, then eight bits (R450). -/
def crcByte (c b : Byte) : Byte := Nat.repeat crcBit 8 (c ^^^ b)

/-- `crc8(l)` (R450): most significant bit first, no final XOR, no reflection. -/
def crc8 (l : List Byte) : Byte := l.foldl crcByte crcInit

/-- A stream frame (R310, R410): the delimiters around the stuffed body and its checksum, which is computed before
stuffing (R411, R312). -/
def streamFrame (body : List Byte) : List Byte := [delim] ++ stuffAll (body ++ [cks8 body]) ++ [delim]

/-- The body of a form A frame (R310): no payload, LENGTH 0. -/
def bodyA (lead : Byte) : List Byte := [frameAddress, lead, 0x00]

/-- The body of a form B frame (R310, R311): LENGTH is 1 + P. -/
def bodyB (lead subc : Byte) (payload : List Byte) : List Byte :=
  [frameAddress, lead, BitVec.ofNat 8 (1 + payload.length), subc] ++ payload

/-- The data of a bus transaction (R315): each pair followed by its own CRC-8. An odd last byte, which B_ENCODE
refuses before it gets here, is left out. -/
def crcPairs : List Byte → List Byte
  | d0 :: d1 :: rest => d0 :: d1 :: crc8 [d0, d1] :: crcPairs rest
  | _ => []

/-- A register-bus write transaction (R315, R452): the address big-endian, then the protected pairs. -/
def busTransaction (addr : BitVec 16) (payload : List Byte) : List Byte :=
  [addr.extractLsb' 8 8, addr.extractLsb' 0 8] ++ crcPairs payload

/-- What B_RECV's scan of the delivered bytes ends with: a result class and, on OK, the accepted bytes. -/
structure BusScan where
  cls : ResultClass
  data : List Byte
  deriving DecidableEq, Repr

/-- B_RECV's scan of the delivered triples (R470, R473 to R477), `acc` being the bytes accepted so far. -/
def scanTriples (n : Nat) (trunc : Bool) : List Byte → List Byte → BusScan
  | d0 :: d1 :: c :: rest, acc =>
    if crc8 [d0, d1] ≠ c then { cls := .protocol, data := [] }
    else if trunc && d0 = 0x00 && d1 = 0x00 then { cls := .ok, data := acc }
    else if n < acc.length + 2 then { cls := .dataLen, data := [] }
    else scanTriples n trunc rest (acc ++ [d0, d1])
  | [], acc => if acc.length = n then { cls := .ok, data := acc } else { cls := .dataLen, data := [] }
  | _, _ => { cls := .dataLen, data := [] }

/-- The whole of B_RECV after delivery (R470, R472): nothing received is a PROTOCOL error. -/
def scanDelivery (n : Nat) (trunc : Bool) (d : List Byte) : BusScan :=
  if d = [] then { cls := .protocol, data := [] } else scanTriples n trunc d []

end Sys2Proof.Machine
end

