-- ==== Sys2Proof/Machine/Ops.lean ====
section
/-! DEFINITION. The named operations over the buffers and registers: the buffer memory, the ONE way a command ends
(`finish`, the block's only "raise": 60_exceptions.md R600, R610, R620), the operand latch, the settle delay, and the draw
of the next input. -/

namespace Sys2Proof.Machine

/-! The buffer memory -/

/-- The four buffers (10_state.md R115 to R118). -/
inductive Buf where
  | pb
  | wb
  | ib
  | rb
  deriving DecidableEq, Repr

/-- The offset of a buffer's window (20_memory.md R201). -/
def Buf.base : Buf → Nat
  | .pb => 0x2000
  | .wb => 0x4000
  | .ib => 0x6000
  | .rb => 0x8000

/-- The host offset of byte `i` of a buffer: base + 4*i (R201). -/
def Buf.addr (b : Buf) (i : Nat) : Nat := b.base + 4 * i

/-- A buffer's capacity in bytes. -/
def Buf.cap (p : Params) : Buf → Nat
  | .pb => p.pbCap.val
  | .wb => p.wbCap
  | .ib => p.ibCap.val
  | .rb => p.rbCap

/-- The value of the byte at a host offset; `none` where no byte has been written since reset (70 R704). -/
def Memory.read : Memory → Nat → Option Byte
  | [], _ => none
  | (a, v) :: m, x => if a = x then some v else Memory.read m x

/-- Store one byte, keeping the offsets strictly rising. -/
def Memory.write : Memory → Nat → Byte → Memory
  | [], x, v => [(x, v)]
  | (a, w) :: m, x, v =>
    if x < a then (x, v) :: (a, w) :: m
    else if x = a then (x, v) :: m
    else (a, w) :: Memory.write m x v

/-- The canonical form: offsets strictly rising. An offset that is not listed has no value, so no entry can equal what
an unlisted offset reads as. -/
abbrev Memory.wf (m : Memory) : Prop := m.Pairwise (fun c d => c.1 < d.1)

/-- Store the bytes of a list at indices `i`, `i + 1`, ... of a buffer (00_scope.md R8). -/
def Memory.writeFrom (m : Memory) (b : Buf) : Nat → List Byte → Memory
  | _, [] => m
  | i, v :: vs => Memory.writeFrom (m.write (b.addr i) v) b (i + 1) vs

/-- Whether byte `i` of a buffer has been written since reset (70 R704). -/
def written (s : State) (b : Buf) (i : Nat) : Bool := (s.mem.read (b.addr i)).isSome

/-- Byte `i` of a buffer as the block reads it: its value, or the unspecified value of a byte that has not been
written (R116 to R118, R704). -/
def byteOf (s : State) (b : Buf) (i : Nat) : Byte :=
  (s.mem.read (b.addr i)).getD (Config.freeByte s.epoch (b.addr i))

/-- The `n` bytes of a buffer from index `i` on, first byte first. -/
def bytesFrom (s : State) (b : Buf) (i n : Nat) : List Byte := (List.range n).map fun k => byteOf s b (i + k)

/-- The state with the bytes of a list stored at the start of a buffer. -/
def storeAll (b : Buf) (l : List Byte) (s : State) : State := { s with mem := s.mem.writeFrom b 0 l }

/-! Ending a command -/

/-- `finish(c)` with the device fields given (60_exceptions.md R610): RESULT, PHASE <- IDLE, DONE <- 1; the latch, TMR
and TXI keep their values. -/
def finishWith (r : Result) (s : State) : State := { s with result := r, phase := .idle, done := true }

/-- `finish(c)` with DEVCODE and DEVERR 0 (R610). -/
def finish (c : ResultClass) (s : State) : State := finishWith { cls := c, devCode := 0, devErr := false } s

/-- `finish(DEVSTATUS)` for the device status byte (40 R433, 60 R604): DEVCODE its low seven bits, DEVERR its bit 7. -/
def finishDevice (status : Byte) (s : State) : State :=
  finishWith { cls := .devStatus, devCode := status.extractLsb' 0 7, devErr := status.getLsbD 7 } s

/-- A receive that ends with a class other than OK and PARAM leaves IB_LEN = 0 (40 R431 to R435, 41 R478). -/
def finishEmpty (c : ResultClass) (s : State) : State := finish c { s with ibLen := 0 }

/-- A receive that ends with OK: the payload in IB, its length in IB_LEN (40 R436, 41 R478). -/
def finishReceived (payload : List Byte) (s : State) : State :=
  finish .ok { storeAll .ib payload s with ibLen := BitVec.ofNat 16 payload.length }

/-- `fail(c)` of S_RECV (40 R420): RXST <- ERROR, IB_LEN <- 0, finish(c). -/
def failReceive (c : ResultClass) (s : State) : State := finishEmpty c { s with rxst := .error }

/-- An encode that ends with OK: the bytes in WB, their count in WB_LEN (40 R410, 41 R452). -/
def finishEncoded (l : List Byte) (s : State) : State :=
  finish .ok { storeAll .wb l s with wbLen := BitVec.ofNat 16 l.length }

/-- The operand latch is written when the command is accepted (30 R320, 10 R124), after the checks that end in PARAM,
which leave it alone (30 R323). DEDUCED: log entry 7. -/
def latchFields (op : BitVec 4) (long trunc : Bool) (n : Count) (s : State) : State :=
  { s with latch := { op := op, long := long, trunc := trunc, n := n } }

/-! The settle delay, shared by S_SEND and B_SEND -/

/-- T of the running send: T_SET_L for the long class, T_SET_S for the short one (40 R413). -/
def settleTime (s : State) : Nat := if s.latch.long then s.params.tSetL else s.params.tSetS

/-- The end of a send: WB is consumed (40 R412, R413; 41 R460, R461; 70 R726). -/
def finishSend (c : ResultClass) (s : State) : State := finish c { s with wbLen := 0 }

/-- `enter_settle()` (40 R413): at once finished if T = 0. -/
def enterSettle (s : State) : State :=
  if settleTime s = 0 then finishSend .ok { s with tmr := 0, phase := .settle }
  else { s with tmr := 0, phase := .settle }

/-! Inputs and epochs -/

/-- A host write or an engine step begins a new epoch of the unspecified values (20 R205; log entry 3). -/
def newEpoch (s : State) : State := { s with epoch := s.epoch + 1 }

/-- The input of this step: the first placed one, or, where none is placed, the environment's next free one (60 R641). -/
def nextInput (s : State) : Input :=
  match s.inputs with
  | [] => Config.input s.inputCount
  | i :: _ => i

/-- The state once its input is taken. -/
def takeInput (s : State) : State :=
  match s.inputs with
  | [] => { s with inputCount := s.inputCount + 1 }
  | _ :: rest => { s with inputs := rest }

end Sys2Proof.Machine
end

