-- ==== Sys2Proof/Machine/Operands.lean ====
section
/-! DEFINITION. The operands of the commands: fixed registers and buffers, never a register chosen by a field (10_state.md
R100). Operands are read as they stand when the CMD write is accepted (20_memory.md R214). -/

namespace Sys2Proof.Machine

/-- PB_LEN > PB_CAP: the command that reads PB finishes with PARAM (30 R322). -/
def payloadTooLong (s : State) : Bool := s.params.pbCap.val < s.pbLen.toNat

/-- PB[0..PB_LEN-1], if the host has written every one of these bytes since reset (70 R704). -/
def payload (s : State) : Option (List Byte) :=
  if (List.range s.pbLen.toNat).all (fun i => written s .pb i) then some (bytesFrom s .pb 0 s.pbLen.toNat) else none

/-- WB[0..WB_LEN-1]: the encoded frame or transaction (10 R116). -/
def wireBytes (s : State) : List Byte := bytesFrom s .wb 0 s.wbLen.toNat

/-- RB[0..RB_LEN-1]: the raw body (10 R118). -/
def rawBody (s : State) : List Byte := bytesFrom s .rb 0 s.rbLen.toNat

/-- N > IB_CAP: a receive finishes with PARAM (30 R322). -/
def countTooLong (n : Count) (s : State) : Bool := s.params.ibCap.val < n.toNat

/-- WB_LEN = 0: nothing is encoded to send (40 R412, 41 R460). -/
def nothingEncoded (s : State) : Bool := s.wbLen = 0

/-- R, the raw byte count B_RECV requests: (N div 2) * 3 (41 R470). -/
def busRawCount (n : Count) : Nat := n.toNat / 2 * 3

end Sys2Proof.Machine
end

