-- ==== Sys2Proof/Machine/BusCodec.lean ====
section
/-! DEFINITION. The register-bus codec (41_bus_codec.md): the meanings of B_ENCODE, B_SEND and B_RECV at the accepted CMD
write, and the steps in which the bus answers. A meaning is called with BUSY = 0 (30 R320). -/

namespace Sys2Proof.Machine

/-- B_ENCODE (R452). -/
def execBEncode (s : State) : Answer :=
  if s.xport ≠ .bus then .next (finish .param (accept s))
  else if payloadTooLong s then .next (finish .param (accept s))
  else if s.pbLen.toNat % 2 ≠ 0 then .next (finish .param (accept s))
  else
    match payload s with
    | none => .fault .unwrittenPayload
    | some p => .next (finishEncoded (busTransaction s.regAddr p) (latchFields 0x5 false false 0 (accept s)))

/-- B_SEND at acceptance (R460): PHASE <- BUS_WR and one bus write of WB[0..WB_LEN-1] to BUS_DEV_ADDR. -/
def execBSend (long : Bool) (s : State) : Answer :=
  if s.xport ≠ .bus then .next (finish .param (accept s))
  else if nothingEncoded s then .next (finish .param (accept s))
  else .next { latchFields 0x6 long false 0 (accept s) with
    phase := .busWr, busReq := some (.write s.params.busDevAddr (wireBytes s)) }

/-- B_RECV at acceptance (R470): PHASE <- BUS_RD and one bus read request of (N div 2) * 3 bytes. -/
def execBRecv (trunc : Bool) (n : Count) (s : State) : Answer :=
  if s.xport ≠ .bus then .next (finish .param (accept s))
  else if countTooLong n s then .next (finish .param (accept s))
  else .next { latchFields 0x7 false trunc n (accept s) with
    phase := .busRd, busReq := some (.read s.params.busDevAddr (busRawCount n)) }

/-- The bus reports completion of the write (R461); without a write in progress nothing happens (70 R700 item 3). -/
def busDoneStep (status : Byte) (s : State) : State :=
  if s.phase = .busWr then
    if status ≠ 0 then finishSend .protocol { newEpoch s with busReq := none }
    else enterSettle { newEpoch s with busReq := none }
  else s

/-- The bus delivers the read data (R471), and the whole of R470 after delivery runs; without a read in progress nothing
happens (70 R700 item 3). -/
def busDataStep (d : List Byte) (s : State) : State :=
  if s.phase = .busRd then
    let t := { newEpoch s with busReq := none }
    let r := scanDelivery s.latch.n.toNat s.latch.trunc d
    if r.cls = .ok then finishReceived r.data t else finishEmpty r.cls t
  else s

end Sys2Proof.Machine
end

