-- ==== Sys2Proof/Machine/StreamCodec.lean ====
section
/-! DEFINITION. The stream-frame codec (40_stream_codec.md): the meanings of S_ENCODE, S_SEND and S_RECV at the accepted CMD
write, and the engine steps that carry S_SEND and S_RECV on. A meaning is called with BUSY = 0 (30 R320: the host write
has tested BUSY); it clears DONE and makes the command's checks in the order of its rule. -/

namespace Sys2Proof.Machine

/-! S_ENCODE -/

/-- S_ENCODE (R410). -/
def execSEncode (sub : Bool) (s : State) : Answer :=
  if s.xport ≠ .stream then .next (finish .param (accept s))
  else if payloadTooLong s then .next (finish .param (accept s))
  else if sub = false then
    if s.pbLen ≠ 0 then .next (finish .param (accept s))
    else .next (finishEncoded (streamFrame (bodyA s.lead)) (latchFields 0x1 false false 0 (accept s)))
  else if 255 < 1 + s.pbLen.toNat then .next (finish .param (accept s))
  else
    match payload s with
    | none => .fault .unwrittenPayload
    | some p =>
      .next (finishEncoded (streamFrame (bodyB s.lead s.subc p)) (latchFields 0x1 false false 0 (accept s)))

/-! S_SEND -/

/-- S_SEND at acceptance (R412): TXI <- 0, PHASE <- TX. -/
def execSSend (long : Bool) (s : State) : Answer :=
  if s.xport ≠ .stream then .next (finish .param (accept s))
  else if nothingEncoded s then .next (finish .param (accept s))
  else .next { latchFields 0x2 long false 0 (accept s) with txi := 0, phase := .tx }

/-- The byte S_SEND offers to the stream transport (R414, `TxOffer(WB[TXI])`). -/
def txOffer (s : State) : Option Byte := if s.phase = .tx then some (byteOf s .wb s.txi) else none

/-- The TX step (R414): the transport accepts the offered byte. Outside TX nothing is offered and nothing happens. -/
def txAcceptStep (s : State) : State :=
  if s.phase = .tx then
    let t := { newEpoch s with txWire := s.txWire ++ [byteOf s .wb s.txi], txi := s.txi + 1 }
    if t.txi = t.wbLen.toNat then enterSettle t else t
  else s

/-! S_RECV -/

/-- S_RECV at acceptance (R420): RXST <- AWAIT_DELIM, RB_LEN <- 0, TMR <- 0, PHASE <- RX. -/
def execSRecv (n : Count) (s : State) : Answer :=
  if s.xport ≠ .stream then .next (finish .param (accept s))
  else if countTooLong n s then .next (finish .param (accept s))
  else .next { latchFields 0x3 false false n (accept s) with
    rxst := .awaitDelim, rbLen := 0, tmr := 0, phase := .rx }

/-- `store(x)` followed by RXST <- IN_BODY unless it failed (R423 to R425): overflow is PROTOCOL. -/
def storeBody (x : Byte) (s : State) : State :=
  if s.rbLen.toNat = s.params.rbCap then failReceive .protocol s
  else { s with mem := s.mem.write (Buf.rb.addr s.rbLen.toNat) x, rbLen := s.rbLen + 1, rxst := .inBody }

/-- `validate()` (R430 to R436) over the raw body, in the order short frame, checksum, status, reported length, expected
length. -/
def validate (s : State) : State :=
  let body := rawBody s
  let m := body.length
  let p := m - 5
  if m < 3 then finishEmpty .protocol s
  else if cks8 (body.take (m - 1)) ≠ body.getD (m - 1) 0 then finishEmpty .protocol s
  else if body.getD 2 0 ≠ 0x00 then finishDevice (body.getD 2 0) { s with ibLen := 0 }
  else if 5 ≤ m ∧ (body.getD 3 0).toNat ≠ m - 5 then finishEmpty .dataLen s
  else if p ≠ s.latch.n.toNat then finishEmpty .dataLen s
  else finishReceived ((body.drop 4).take p) s

/-- The transition on one taken byte (R422 to R424). DONE and ERROR take no byte. -/
def rxByte (b : Byte) (s : State) : State :=
  match s.rxst with
  | .awaitDelim => if b = delim then { s with rxst := .inBody } else failReceive .protocol s
  | .inBody =>
    if b = delim then validate { s with rxst := .done }
    else if b = esc then { s with rxst := .escape }
    else storeBody b s
  | .escape =>
    match unescape b with
    | some x => storeBody x s
    | none => failReceive .protocol s
  | .done => s
  | .error => s

/-- RXST is one of the three states in which a byte step is enabled (R421). -/
def rxOpen (s : State) : Bool := s.rxst ≠ .done && s.rxst ≠ .error

/-- The byte step of S_RECV (R421): enabled only in RX, with the machine open and the queue non-empty; otherwise nothing
happens. -/
def rxTakeStep (s : State) : State :=
  match s.rxQueue with
  | [] => s
  | b :: q => if s.phase = .rx ∧ rxOpen s = true then rxByte b { newEpoch s with rxQueue := q } else s

/-- A byte arrives in the stream transport's queue (10 R125): not a step of the block. -/
def rxArriveStep (b : Byte) (s : State) : State := { s with rxQueue := s.rxQueue ++ [b] }

end Sys2Proof.Machine
end

