-- ==== Sys2Proof/Machine/Engine.lean ====
section
/-! DEFINITION. The steps of the block that no host access causes and that both codecs share: the Tick (40_stream_codec.md
R413, R428; 70_reset_and_hazards.md R730) and the reset input (70 R700). -/

namespace Sys2Proof.Machine

/-- A Tick in SETTLE (R413): the Tick that makes TMR = T finishes the send. -/
def settleTick (s : State) : State :=
  if s.tmr + 1 = settleTime s then finishSend .ok { s with tmr := s.tmr + 1 } else { s with tmr := s.tmr + 1 }

/-- A Tick in RX (R428): the Tick that makes TMR > T_RX, with RXST not DONE and not ERROR, fails with TIMEOUT. -/
def rxTick (s : State) : State :=
  if s.params.tRx < s.tmr + 1 ∧ rxOpen s = true then failReceive .timeout { s with tmr := s.tmr + 1 }
  else { s with tmr := s.tmr + 1 }

/-- A Tick. In IDLE, TX, BUS_WR and BUS_RD it changes nothing (R730). -/
def tickStep (s : State) : State :=
  match s.phase with
  | .settle => settleTick (newEpoch s)
  | .rx => rxTick (newEpoch s)
  | .idle => s
  | .tx => s
  | .busWr => s
  | .busRd => s

/-- The reset input (R700): every register and internal field at its reset value, every buffer byte unspecified, the
running command abandoned and the bus request withdrawn. The agents around the block keep what is theirs: the receive
queue (R700 item 4), the bytes the transport has accepted, what the host has read, the inputs to come, and the fixed
parameters (R6). -/
def resetStep (s : State) : State :=
  { State.reset with
    rxQueue := s.rxQueue, txWire := s.txWire, hostData := s.hostData, inputs := s.inputs,
    inputCount := s.inputCount, epoch := s.epoch + 1, params := s.params }

end Sys2Proof.Machine
end

