-- ==== Sys2Proof/Machine/Primitives.lean ====
section
/-! DEFINITION. The byte-level primitives (42_primitives.md): STUFF, UNSTUFF, CKSUM, CRC8. Each runs whatever XPORT holds
(30 R321) and finishes in the step of its CMD write. A meaning is called with BUSY = 0 (30 R320). -/

namespace Sys2Proof.Machine

/-- PRIM_OUT for the wire bytes of STUFF (R500): CNT their count, O1 0 when there is only one. -/
def stuffOut (b : Byte) : PrimOut :=
  { cnt := BitVec.ofNat 2 (stuff b).length, o0 := (stuff b).getD 0 0, o1 := (stuff b).getD 1 0 }

/-- STUFF (R500). -/
def execStuff (s : State) : Answer :=
  .next (finish .ok { latchFields 0x8 false false 0 (accept s) with primOut := stuffOut s.primIn0 })

/-- The result class and PRIM_OUT of UNSTUFF (R501): CNT is the number of input bytes consumed. -/
def unstuffResult (b0 b1 : Byte) : ResultClass × PrimOut :=
  if b0 = delim then (.protocol, { cnt := 0, o0 := 0, o1 := 0 })
  else if b0 = esc then
    match unescape b1 with
    | some x => (.ok, { cnt := 2, o0 := x, o1 := 0 })
    | none => (.protocol, { cnt := 0, o0 := 0, o1 := 0 })
  else (.ok, { cnt := 1, o0 := b0, o1 := 0 })

/-- UNSTUFF (R501). -/
def execUnstuff (s : State) : Answer :=
  .next (finish (unstuffResult s.primIn0 s.primIn1).1
    { latchFields 0x9 false false 0 (accept s) with primOut := (unstuffResult s.primIn0 s.primIn1).2 })

/-- CKSUM (R502). -/
def execCksum (s : State) : Answer :=
  if payloadTooLong s then .next (finish .param (accept s))
  else
    match payload s with
    | none => .fault .unwrittenPayload
    | some p => .next (finish .ok { latchFields 0xA false false 0 (accept s) with chk := cks8 p })

/-- CRC8 (R503). -/
def execCrc8 (s : State) : Answer :=
  if payloadTooLong s then .next (finish .param (accept s))
  else
    match payload s with
    | none => .fault .unwrittenPayload
    | some p => .next (finish .ok { latchFields 0xB false false 0 (accept s) with chk := crc8 p })

end Sys2Proof.Machine
end

