-- ==== Sys2Proof/Machine/Dispatch.lean ====
section
/-! DEFINITION. The dispatch of a command to its meaning: one arm per constructor of Instr. -/

namespace Sys2Proof.Machine

/-- Perform a command that a CMD write with BUSY = 0 has issued. -/
def exec (i : Instr) (s : State) : Host.Outcome State Fault Refusal :=
  match i with
  | .sEncode sub => Sys2Proof.Machine.execSEncode sub s
  | .sSend long => Sys2Proof.Machine.execSSend long s
  | .sRecv n => Sys2Proof.Machine.execSRecv n s
  | .bEncode => Sys2Proof.Machine.execBEncode s
  | .bSend long => Sys2Proof.Machine.execBSend long s
  | .bRecv trunc n => Sys2Proof.Machine.execBRecv trunc n s
  | .stuff => Sys2Proof.Machine.execStuff s
  | .unstuff => Sys2Proof.Machine.execUnstuff s
  | .cksum => Sys2Proof.Machine.execCksum s
  | .crc8 => Sys2Proof.Machine.execCrc8 s

end Sys2Proof.Machine
end

