-- ==== Sys2Proof/Machine/HostAccess.lean ====
section
/-! DEFINITION. The host's accesses (20_memory.md): the register map, reads, writes, and the acceptance of a command word
written to CMD (30_encoding.md R320). -/

namespace Sys2Proof.Machine

/-- The registers of the map (20 R201). -/
inductive Reg where
  | ctrl
  | status
  | cmd
  | result
  | scmd
  | regAddr
  | pbLen
  | wbLen
  | ibLen
  | rbLen
  | primIn
  | primOut
  | chk
  deriving DecidableEq, Repr

/-- What stands at an offset. -/
inductive Target where
  | reg (r : Reg)
  | byte (b : Buf) (i : Nat)
  | unmapped
  deriving DecidableEq, Repr

/-- A register's offset (20 R201). -/
def Reg.offset : Reg → Nat
  | .ctrl => 0x0000
  | .status => 0x0004
  | .cmd => 0x0008
  | .result => 0x000C
  | .scmd => 0x0010
  | .regAddr => 0x0014
  | .pbLen => 0x0018
  | .wbLen => 0x001C
  | .ibLen => 0x0020
  | .rbLen => 0x0024
  | .primIn => 0x0028
  | .primOut => 0x002C
  | .chk => 0x0030

/-- The registers in the order of the map. -/
def allRegs : List Reg :=
  [.ctrl, .status, .cmd, .result, .scmd, .regAddr, .pbLen, .wbLen, .ibLen, .rbLen, .primIn, .primOut, .chk]

/-- A buffer's window is 0x2000 offsets wide; within it, byte `i` stands at base + 4*i and an index at or above the
capacity is unmapped (20 R201, R202). -/
def windowTarget (p : Params) (b : Buf) (x : Nat) : Target :=
  if (x - b.base) / 4 < b.cap p then .byte b ((x - b.base) / 4) else .unmapped

/-- The map of the host register space for a word-aligned offset (20 R201, R202). -/
def target (p : Params) (off : Offset) : Target :=
  match allRegs.find? (fun r => r.offset = off.toNat) with
  | some r => .reg r
  | none =>
    if off.toNat < 0x2000 then .unmapped
    else if off.toNat < 0x4000 then windowTarget p .pb off.toNat
    else if off.toNat < 0x6000 then windowTarget p .wb off.toNat
    else if off.toNat < 0x8000 then windowTarget p .ib off.toNat
    else if off.toNat < 0xA000 then windowTarget p .rb off.toNat
    else .unmapped

/-- Only a 32-bit access at a multiple of 4 is supported (20 R203). -/
def supported (size : AccessSize) (off : Offset) : Bool := size = .word && off.toNat % 4 = 0

/-! Reads -/

/-- The settled value of a register, every bit that is no field 0 (10_state.md R102 to R114). -/
def regWord (s : State) : Reg → Word
  | .ctrl => xportCode s.xport
  | .status => statusWord s
  | .cmd => 0
  | .result => resultWord s.result
  | .scmd => s.lead.setWidth 32 ||| s.subc.setWidth 32 <<< 8
  | .regAddr => s.regAddr.setWidth 32
  | .pbLen => s.pbLen.setWidth 32
  | .wbLen => s.wbLen.setWidth 32
  | .ibLen => s.ibLen.setWidth 32
  | .rbLen => s.rbLen.setWidth 32
  | .primIn => s.primIn0.setWidth 32 ||| s.primIn1.setWidth 32 <<< 8
  | .primOut => primOutWord s.primOut
  | .chk => s.chk.setWidth 32

/-- The field bits of the registers whose value is unspecified while BUSY; 0 for a register that reads as usual
(70 R721). -/
def busyMask : Reg → Word
  | .result => 0x0000FF07
  | .wbLen => 0x0000FFFF
  | .ibLen => 0x0000FFFF
  | .rbLen => 0x0000FFFF
  | _ => 0

/-- RESULT, WB_LEN, IB_LEN and RB_LEN are the registers that a running command may write (70 R721). -/
def unspecifiedBusy (r : Reg) : Bool := r = .result || r = .wbLen || r = .ibLen || r = .rbLen

/-- What a host read of a register returns (70 R721): while BUSY, a free value with the reserved bits 0 for the four
registers a running command may write. -/
def readReg (s : State) (r : Reg) : Word :=
  if s.busy && unspecifiedBusy r then Config.freeWord s.epoch r.offset &&& busyMask r else regWord s r

/-- The length register that bounds the meaningful bytes of a buffer; for PB every written byte is meaningful. -/
def meaningful (s : State) : Buf → Nat → Bool
  | .pb, _ => true
  | .wb, i => !s.busy && decide (i < s.wbLen.toNat)
  | .ib, i => !s.busy && decide (i < s.ibLen.toNat)
  | .rb, i => !s.busy && decide (i < s.rbLen.toNat)

/-- What a host read of a buffer byte returns: its value where it is meaningful and written, else a free byte
(10 R115 to R118; 70 R704, R721). -/
def readByte (s : State) (b : Buf) (i : Nat) : Byte :=
  if meaningful s b i then byteOf s b i else Config.freeByte s.epoch (b.addr i)

/-- The value a supported host read returns (20 R201, R202). -/
def readValue (s : State) (off : Offset) : Word :=
  match target s.params off with
  | .reg r => readReg s r
  | .byte b i => (readByte s b i).setWidth 32
  | .unmapped => 0

/-- A host read: the value is returned and nothing else changes (20 R205). -/
def hostRead (size : AccessSize) (off : Offset) (s : State) : Answer :=
  if supported size off then .next { s with hostData := readValue s off } else .refused .unsupportedAccess

/-! Writes -/

/-- CTRL is write-once: XPORT leaves none for 01 or 10 and never changes again but by reset (R102). -/
def writeCtrl (v : Word) (s : State) : State :=
  if s.xport ≠ .none then s
  else if v.extractLsb' 0 2 = 1 then { s with xport := .stream }
  else if v.extractLsb' 0 2 = 2 then { s with xport := .bus }
  else s

/-- A host write while BUSY is rejected; otherwise it has its effect (R119). -/
def guarded (f : State → State) (s : State) : State := if s.busy then reject s else f s

/-- A host write to a register other than CMD. Read-only registers ignore it; STATUS is written at any time. -/
def writeReg (r : Reg) (v : Word) (s : State) : State :=
  match r with
  | .ctrl => guarded (writeCtrl v) s
  | .status => clearRej v s
  | .scmd => guarded (fun t => { t with lead := v.extractLsb' 0 8, subc := v.extractLsb' 8 8 }) s
  | .regAddr => guarded (fun t => { t with regAddr := v.extractLsb' 0 16 }) s
  | .pbLen => guarded (fun t => { t with pbLen := v.extractLsb' 0 16 }) s
  | .primIn => guarded (fun t => { t with primIn0 := v.extractLsb' 0 8, primIn1 := v.extractLsb' 8 8 }) s
  | .cmd => s
  | .result => s
  | .wbLen => s
  | .ibLen => s
  | .rbLen => s
  | .primOut => s
  | .chk => s

/-- A host write to a buffer byte: PB[i] <- v[7:0] (R115); the other windows are read-only (R116 to R118). -/
def writeByte (b : Buf) (i : Nat) (v : Word) (s : State) : State :=
  match b with
  | .pb => guarded (fun t => { t with mem := t.mem.write (Buf.pb.addr i) (v.extractLsb' 0 8) }) s
  | .wb => s
  | .ib => s
  | .rb => s

/-- A host write to CMD (30 R320): rejected while BUSY; PARAM for a word that is not well formed (R323); else the
command it encodes is performed. -/
def writeCmd (v : Word) (s : State) : Answer :=
  if s.busy then .next (reject s)
  else
    match decode v with
    | .error _ => .next (finish .param (accept s))
    | .ok i => exec i s

/-- The effect of a supported host write by what stands at its offset (20 R201, R202): the map comes before
BUSY (DEDUCED: log entry 12). -/
def writeTarget (t : Target) (v : Word) (s : State) : Answer :=
  match t with
  | .reg .cmd => writeCmd v s
  | .reg r => .next (writeReg r v s)
  | .byte b i => .next (writeByte b i v s)
  | .unmapped => .next s

/-- A host write. -/
def hostWrite (size : AccessSize) (off : Offset) (v : Word) (s : State) : Answer :=
  if supported size off then writeTarget (target s.params off) v (newEpoch s) else .refused .unsupportedAccess

end Sys2Proof.Machine
end

