-- ==== Sys2Proof/Machine/React.lean ====
section
/-! DEFINITION. What the machine does on each kind of input (60_exceptions.md R612): one input is one step, and an input
that the block does not have enabled changes nothing (DEDUCED, safe: log entry 9). -/

namespace Sys2Proof.Machine

/-- The answer to one input. -/
def react (i : Input) (s : State) : Answer :=
  match i with
  | .hostRead size off => hostRead size off s
  | .hostWrite size off v => hostWrite size off v s
  | .txAccept => .next (txAcceptStep s)
  | .rxArrive b => .next (rxArriveStep b s)
  | .rxTake => .next (rxTakeStep s)
  | .busDone status => .next (busDoneStep status s)
  | .busData d => .next (busDataStep d s)
  | .tick => .next (tickStep s)
  | .reset => .next (resetStep s)

/-- The state whose next step issues a command word: the engine idle and the write to CMD as the first input.
DESIGN CHOICE, safe: log entry 14. -/
def placeCommand (w : Word) (s : State) : State :=
  { s with phase := .idle, inputs := .hostWrite .word (BitVec.ofNat 16 Reg.cmd.offset) w :: s.inputs }

end Sys2Proof.Machine
end

