-- ==== Sys2Proof/Machine/Step.lean ====
section
/-! DEFINITION. One step of the machine: it takes one input and answers it. -/

namespace Sys2Proof.Machine

/-- One step (60_exceptions.md R612): the first placed input, or the environment's next free one, and what it does. -/
def step (s : State) : Host.Outcome State Fault Refusal := react (nextInput s) (takeInput s)

/-- The state with an opcode-table row's word, its bits above `nbits` 0, as the command its very next step issues. -/
def State.withFetchWord (s : State) (nbits w : Nat) : State := placeCommand (tableWord nbits w) s

end Sys2Proof.Machine
end

