-- ==== Sys2Proof/Machine/HostProtocol.lean ====
section
/-! DEFINITION. The host side, outside the block: the program lines and pseudo-instructions of 30_encoding.md R330 and
R331, and the decisions of the host protocol of 60_exceptions.md R651 to R655. No field of State holds any of it (R603,
92_eei_decisions.md D36); a program of host lines reaches the block only as inputs. -/

namespace Sys2Proof.Machine

/-! Program lines -/

/-- `wr <REG>, <value>` (R330). -/
def wr (r : Reg) (v : Word) : Input := .hostWrite .word (BitVec.ofNat 16 r.offset) v

/-- `rd <REG>` (R330). -/
def rd (r : Reg) : Input := .hostRead .word (BitVec.ofNat 16 r.offset)

/-- `wr PB[<i>], <byte>` (R330). -/
def wrPb (i : Nat) (b : Byte) : Input := .hostWrite .word (BitVec.ofNat 16 (Buf.pb.addr i)) (b.setWidth 32)

/-- `rd IB[<i>]`, likewise WB, RB and PB (R330). -/
def rdByte (b : Buf) (i : Nat) : Input := .hostRead .word (BitVec.ofNat 16 (b.addr i))

/-- A command's line: `wr CMD, <its command word>` (R330). -/
def issue (i : Instr) : Input := wr .cmd (encode i)

/-- One line of a host program after the expansion of pseudo-instructions: an access, or `wait`. -/
inductive HostLine where
  | access (i : Input)
  | wait
  deriving DecidableEq, Repr

/-- `ldpb b0, ..., bk-1` (R331): the bytes into PB, then PB_LEN. -/
def ldpb (l : List Byte) : List HostLine :=
  l.mapIdx (fun i b => .access (wrPb i b)) ++ [.access (wr .pbLen (BitVec.ofNat 32 l.length))]

/-- `s_xact [sub] [long] n=<EXP>` (R331). -/
def sXact (sub long : Bool) (n : Count) : List HostLine :=
  [.access (issue (.sEncode sub)), .access (issue (.sSend long)), .wait, .access (issue (.sRecv n)), .wait]

/-- What is left of a transaction after a command that finished with a class: the host stops after a class other than OK
(R331 for `s_xact`; DEDUCED for a bus read: log entry 23). -/
def xactRest (cls : ResultClass) (rest : List HostLine) : List HostLine := if cls = .ok then rest else []

/-- `b_write [long]` (R331). -/
def bWrite (long : Bool) : List HostLine := [.access (issue .bEncode), .access (issue (.bSend long)), .wait]

/-- `b_read n=<N> [trunc]` (R331). -/
def bRead (n : Count) (trunc : Bool) : List HostLine := [.access (issue (.bRecv trunc n)), .wait]

/-- The access a line makes: `wait` reads STATUS (R331). -/
def HostLine.input : HostLine → Input
  | .access i => i
  | .wait => rd .status

/-- The program that remains once the access of its first line has returned: `wait` stays while the STATUS just read
has BUSY = 1 (R331). -/
def advance (s : State) : List HostLine → List HostLine
  | [] => []
  | .access _ :: rest => rest
  | .wait :: rest => if s.hostData.getLsbD 0 then .wait :: rest else rest

/-! The session and the save/restore wrapper -/

/-- The events of the Device Session State (R651). -/
inductive SessionEvent where
  | start
  | stop
  | reset
  deriving DecidableEq, Repr

/-- The measurement-active flag after an event (R651). The rule's state machine has no transition for start while
MEASURING nor for stop while IDLE: the model takes the flag to be the event's own, so that a start leaves it true and a
stop leaves it false from either state (DESIGN CHOICE, unsafe: log entry 22). -/
def sessionNext (_measuring : Bool) : SessionEvent → Bool
  | .start => true
  | .stop => false
  | .reset => false

/-- Whether a device reset makes the host re-initialize the register-bus transport: only where it is the active one
(R651). The host does so outside the block (R657). -/
def rearmsBus (x : Transport) : SessionEvent → Bool
  | .start => false
  | .stop => false
  | .reset => x = .bus

/-- Whether the host issues start first, for a get-values or get-tuning request (R653). -/
def autoStart (measuring : Bool) : Bool := !measuring

/-- What a gated operation ends with: the host's result and the measurement flag. -/
structure Gated where
  result : ResultClass
  measuring : Bool
  deriving DecidableEq, Repr

/-- The save/restore wrapper (R652, R654; 90_conflicts.md C6), from the results of its stop, its inner operation and its
restart. The flag follows the device: a stop that fails leaves it true, a restart that fails leaves it false (DEDUCED,
unsafe: log entry 22). -/
def gated (measuring : Bool) (stop inner restart : ResultClass) : Gated :=
  if measuring = false then { result := inner, measuring := false }
  else if stop ≠ .ok then { result := .cmdState, measuring := true }
  else if inner ≠ .ok then { result := inner, measuring := decide (restart = .ok) }
  else if restart = .ok then { result := .ok, measuring := true }
  else { result := .cmdState, measuring := false }

/-! Whole transactions -/

/-- The settle class the host picks: long for persist-to-storage and device-reset commands (R655, 41 R462). -/
def settleClass (persist deviceReset : Bool) : Bool := persist || deviceReset

/-- TRUNC of a bus read: 1 only for identifier strings (R655), and for every one of them (DEDUCED: log entry 23). -/
def truncClass (identifier : Bool) : Bool := identifier

/-- `wr SCMD` with the lead byte and the sub-command byte of the next frame (R330, 10_state.md R106). -/
def wrScmd (lead subc : Byte) : Input := wr .scmd ((0 : BitVec 16) ++ subc ++ lead)

/-- `wr REGADDR` with the address of the next bus transaction (R330, 10_state.md R107). -/
def wrRegAddr (addr : BitVec 16) : Input := wr .regAddr (addr.setWidth 32)

/-- A stream transaction (R655): the operands of the frame (70 R710 item 2), then `s_xact` with the settle class and the
expected count. -/
def streamTransaction (lead subc : Byte) (sub : Bool) (payload : List Byte) (persist deviceReset : Bool) (n : Count) :
    List HostLine :=
  [.access (wrScmd lead subc)] ++ ldpb payload ++ sXact sub (settleClass persist deviceReset) n

/-- A register-bus write (R655): the register address in REGADDR, the payload in PB, then `b_write`. -/
def busWriteTransaction (addr : BitVec 16) (payload : List Byte) (persist deviceReset : Bool) : List HostLine :=
  [.access (wrRegAddr addr)] ++ ldpb payload ++ bWrite (settleClass persist deviceReset)

/-- A register-bus read (R655): a write of the address alone, with PB_LEN = 0, then `b_read` of the requested count. -/
def busReadTransaction (addr : BitVec 16) (n : Count) (identifier : Bool) : List HostLine :=
  busWriteTransaction addr [] false false ++ bRead n (truncClass identifier)

end Sys2Proof.Machine
end

