-- ==== Sys2Proof/Safety.lean ====
section
/-! DEFINITION. What counts as a safe state of the block, in the terms the statements use: the invariant `BlockInv`
that every step keeps, and the end of a run (70_reset_and_hazards.md R731). -/

namespace Sys2Proof.Machine

/-- The first `n` bytes of a buffer have been written since reset. -/
def Written (m : Memory) (b : Buf) (n : Nat) : Prop := ∀ i, i < n → (m.read (b.addr i)).isSome = true

/-- Every listed offset is the offset of a byte inside a buffer's capacity (20 R201). -/
def InWindows (p : Params) (m : Memory) : Prop := ∀ c ∈ m, ∃ b i, i < Buf.cap p b ∧ c.1 = Buf.addr b i

/-- The request that B_SEND hands to the bus (41 R460). -/
def sentRequest (s : State) : BusRequest := .write s.params.busDevAddr (wireBytes s)

/-- The request that B_RECV hands to the bus (41 R470). -/
def readRequest (s : State) : BusRequest := .read s.params.busDevAddr (busRawCount s.latch.n)

/-- RESULT after `finish(c)` without device fields (60 R610). -/
def plainResult (c : ResultClass) : Result := { cls := c, devCode := 0, devErr := false }

/-- What a command that finishes with PARAM leaves: only RESULT and DONE differ (30 R323). -/
def paramOnly (s : State) : State := { s with result := plainResult .param, done := true }

/-- The answer is the next state `t`, whatever its epoch: the epoch is the model's own counter (log entry 3), of which no
rule of the spec speaks. -/
def GoesTo (a : Answer) (t : State) : Prop := ∃ n, a = .next { t with epoch := n }

/-- The invariant of the block: what holds at reset and after every step. -/
structure BlockInv (s : State) : Prop where
  /-- The buffer memory is in its canonical form. -/
  memWf : Memory.wf s.mem
  /-- Only bytes inside the buffers are held. -/
  memIn : InWindows s.params s.mem
  /-- WB_LEN is at most WB_CAP (10 R109). -/
  wbLen : s.wbLen.toNat ≤ s.params.wbCap
  /-- IB_LEN is at most IB_CAP (10 R110). -/
  ibLen : s.ibLen.toNat ≤ s.params.ibCap.val
  /-- RB_LEN is at most RB_CAP (10 R111). -/
  rbLen : s.rbLen.toNat ≤ s.params.rbCap
  /-- WB[0..WB_LEN-1] is written. -/
  wbWritten : Written s.mem .wb s.wbLen.toNat
  /-- IB[0..IB_LEN-1] is written. -/
  ibWritten : Written s.mem .ib s.ibLen.toNat
  /-- RB[0..RB_LEN-1] is written. -/
  rbWritten : Written s.mem .rb s.rbLen.toNat
  /-- DONE is 0 while a command runs (10 R126). -/
  busyNotDone : s.phase ≠ .idle → s.done = false
  /-- In TX, S_SEND runs and TXI is inside the frame (10 R123). -/
  inTx : s.phase = .tx → s.latch.op = 0x2 ∧ s.xport = .stream ∧ s.txi < s.wbLen.toNat
  /-- In SETTLE, a send runs and TMR has not reached T (40 R413). -/
  inSettle : s.phase = .settle → s.tmr < settleTime s ∧
    (s.latch.op = 0x2 ∧ s.xport = .stream ∨ s.latch.op = 0x6 ∧ s.xport = .bus)
  /-- In RX, S_RECV runs, the machine is open, TMR is at most T_RX (40 R428) and EXP fits IB. -/
  inRx : s.phase = .rx → s.latch.op = 0x3 ∧ s.xport = .stream ∧ rxOpen s = true ∧ s.tmr ≤ s.params.tRx ∧
    s.latch.n.toNat ≤ s.params.ibCap.val
  /-- In BUS_WR, B_SEND runs and its bus write is issued (41 R460). -/
  inBusWr : s.phase = .busWr → s.latch.op = 0x6 ∧ s.xport = .bus ∧ s.busReq = some (sentRequest s)
  /-- In BUS_RD, B_RECV runs, its bus read is issued (41 R470) and N fits IB. -/
  inBusRd : s.phase = .busRd → s.latch.op = 0x7 ∧ s.xport = .bus ∧ s.busReq = some (readRequest s) ∧
    s.latch.n.toNat ≤ s.params.ibCap.val
  /-- No bus request is pending in any other phase. -/
  noReq : s.phase ≠ .busWr → s.phase ≠ .busRd → s.busReq = none
  /-- The block never writes CMDSTATE (60 R603). -/
  noCmdState : s.result.cls ≠ .cmdState
  /-- The device fields are 0 for every class but DEVSTATUS (60 R601). -/
  devZero : s.result.cls ≠ .devStatus → s.result.devCode = 0 ∧ s.result.devErr = false
  /-- PRIM_OUT.CNT is never 3 (10 R113). -/
  primCnt : s.primOut.cnt ≠ 3

/-- A run is over when the program has made its last access and PHASE is IDLE (70 R731). -/
def RunOver (program : List HostLine) (s : State) : Prop := program = [] ∧ s.phase = .idle

/-- A run that is over with REJ = 1 has lost a write (70 R731). -/
def LostWrite (program : List HostLine) (s : State) : Prop := RunOver program s ∧ s.rej = true

end Sys2Proof.Machine
end

