-- ==== Sys2Proof/Certificates/Slice0/Obligations.lean ====
section
/-! DEFINITION. The statements about the block, from the numbered rules of spec/. -/

open Sys2Proof Sys2Proof.Machine

/-! Encoding and decoding -/

/-- R300 to R302: every command's word decodes to that command, with every operand at every value. -/
def Obligations.EncodeThenDecode : Prop := ∀ i : Instr, decode (encode i) = .ok i

/-- R300 to R302: a word that decodes to a command is exactly the word the host assembles for it, so no accepted word
has a second meaning or a dropped bit. -/
def Obligations.DecodeThenEncode : Prop := ∀ (v : Word) (i : Instr), decode v = .ok i → encode i = v

/-- R330: a few command words written out from the spec's syntax decode to their commands. -/
def Obligations.SpecWordsDecode : Prop :=
  decode 0x00000021#32 = .ok (.sEncode true) ∧ decode 0x00000012#32 = .ok (.sSend true) ∧
  decode 0x00020003#32 = .ok (.sRecv 2) ∧ decode 0x00000005#32 = .ok .bEncode ∧
  decode 0x00000006#32 = .ok (.bSend false) ∧ decode 0x00180047#32 = .ok (.bRecv true 24) ∧
  decode 0x00000008#32 = .ok .stuff ∧ decode 0x00000009#32 = .ok .unstuff ∧
  decode 0x0000000A#32 = .ok .cksum ∧ decode 0x0000000B#32 = .ok .crc8

/-- R323: which words are well formed, bit by bit; a word that is not finishes with PARAM; and PARAM, from here or from
any other check, writes only RESULT and DONE. -/
def Obligations.ParamWritesOnlyResultAndDone : Prop :=
  (∀ v : Word, (∃ i, decode v = .ok i) ↔
    ((v.extractLsb' 0 4) ∈ [0x1#4, 0x2#4, 0x3#4, 0x5#4, 0x6#4, 0x7#4, 0x8#4, 0x9#4, 0xA#4, 0xB#4] ∧
      v.extractLsb' 7 9 = 0 ∧
      (v.getLsbD 4 = true → v.extractLsb' 0 4 = 0x2#4 ∨ v.extractLsb' 0 4 = 0x6#4) ∧
      (v.getLsbD 5 = true → v.extractLsb' 0 4 = 0x1#4) ∧
      (v.getLsbD 6 = true → v.extractLsb' 0 4 = 0x7#4) ∧
      (v.extractLsb' 16 16 ≠ 0 → v.extractLsb' 0 4 = 0x3#4 ∨ v.extractLsb' 0 4 = 0x7#4))) ∧
  (∀ (s : State) (v : Word), s.phase = .idle → (¬ ∃ i, decode v = .ok i) →
    GoesTo (react (.hostWrite .word 0x0008 v) s) (paramOnly s)) ∧
  (∀ (s t : State) (i : Instr), s.phase = .idle → exec i s = .next t → t.done = true → t.result.cls = .param →
    t = paramOnly s)

/-! The step -/

/-- R320, R612: a step is the answer to exactly one input, the first placed one (log entry 1); and when that input is a
write to CMD of a word that decodes to `i` and the block is not BUSY, the step is `exec i` on the state with that input
taken and a new epoch of unspecified values begun. -/
def Obligations.StepRunsDecodedCommand : Prop :=
  (∀ (s : State) (i : Input) (rest : List Input), s.inputs = i :: rest →
    step s = react i { s with inputs := rest }) ∧
  (∀ (s : State) (v : Word) (i : Instr) (rest : List Input),
    s.inputs = .hostWrite .word 0x0008 v :: rest → s.phase = .idle → decode v = .ok i →
    step s = exec i { s with inputs := rest, epoch := s.epoch + 1 })

/-! Host accesses -/

/-- R202: at an unmapped offset, or at a window index at or above the capacity, a read returns 0 and a write is ignored
and does not set REJ, whether or not the block is BUSY. -/
def Obligations.UnmappedReadsZeroIgnoresWrites : Prop :=
  ∀ (s : State) (off : Offset) (v : Word), off.toNat % 4 = 0 →
    ((0x0034 ≤ off.toNat ∧ off.toNat < 0x2000) ∨
      (∃ i, off.toNat = 0x2000 + 4 * i ∧ s.params.pbCap.val ≤ i ∧ i < 2048) ∨
      (∃ i, off.toNat = 0x4000 + 4 * i ∧ s.params.wbCap ≤ i ∧ i < 2048) ∨
      (∃ i, off.toNat = 0x6000 + 4 * i ∧ s.params.ibCap.val ≤ i ∧ i < 2048) ∨
      (∃ i, off.toNat = 0x8000 + 4 * i ∧ s.params.rbCap ≤ i ∧ i < 2048) ∨
      0xA000 ≤ off.toNat) →
    react (.hostRead .word off) s = .next { s with hostData := 0 } ∧
    GoesTo (react (.hostWrite .word off v) s) s

/-- R205: a host read changes nothing but the value returned, and a repeated read of the same offset returns the same
value, unspecified values included. -/
def Obligations.HostReadHasNoSideEffect : Prop :=
  ∀ (s t : State) (size : AccessSize) (off : Offset), react (.hostRead size off) s = .next t →
    t = { s with hostData := t.hostData } ∧ react (.hostRead size off) t = .next t

/-- R103, R120, R121: the fields of STATUS as the host reads them, in every state, with the number of each RXST and each
PHASE; a host write to STATUS changes only REJ, whether or not the block is BUSY. -/
def Obligations.StatusFieldsAndWrite : Prop :=
  (∀ s : State, ∃ w : Word, react (.hostRead .word 0x0004) s = .next { s with hostData := w } ∧
    (w.getLsbD 0 = true ↔ s.phase ≠ .idle) ∧ w.getLsbD 1 = s.done ∧ w.getLsbD 2 = s.rej ∧ w.getLsbD 3 = false ∧
    w.extractLsb' 4 3 = (match s.rxst with
      | .awaitDelim => 0 | .inBody => 1 | .escape => 2 | .done => 3 | .error => 4) ∧
    w.getLsbD 7 = false ∧
    w.extractLsb' 8 3 = (match s.phase with
      | .idle => 0 | .tx => 1 | .settle => 2 | .rx => 3 | .busWr => 4 | .busRd => 5) ∧
    w.extractLsb' 11 21 = 0) ∧
  (∀ (s : State) (v : Word),
    GoesTo (react (.hostWrite .word 0x0004 v) s) { s with rej := s.rej && !v.getLsbD 2 })

/-- R102: XPORT is written once, by an idle write whose low two bits are 01 or 10; a later write is ignored; CTRL reads
as XPORT in its low two bits; reset makes it none; and no step but reset changes it otherwise than from none, by an idle
write to CTRL of 01 or 10. -/
def Obligations.TransportWrittenOnce : Prop :=
  (∀ (s : State) (v : Word), s.phase = .idle → s.xport = .none →
    GoesTo (react (.hostWrite .word 0x0000 v) s) { s with
      xport := if v.extractLsb' 0 2 = 1 then .stream else if v.extractLsb' 0 2 = 2 then .bus else .none }) ∧
  (∀ (s : State) (v : Word), s.phase = .idle → s.xport ≠ .none →
    GoesTo (react (.hostWrite .word 0x0000 v) s) s) ∧
  (∀ s : State, react (.hostRead .word 0x0000) s = .next { s with
    hostData := match s.xport with | .none => 0 | .stream => 1 | .bus => 2 }) ∧
  State.reset.xport = .none ∧
  (∀ s t : State, react .reset s = .next t → t.xport = .none) ∧
  (∀ s t : State, step s = .next t → nextInput s ≠ .reset → t.xport ≠ s.xport →
    s.xport = .none ∧ s.phase = .idle ∧ ∃ v : Word, nextInput s = .hostWrite .word 0x0000 v ∧
      (v.extractLsb' 0 2 = 1 ∧ t.xport = .stream ∨ v.extractLsb' 0 2 = 2 ∧ t.xport = .bus))

/-- R119: while BUSY, a write to CTRL, CMD, SCMD, REGADDR, PB_LEN, PRIM_IN or any PB byte is ignored and sets REJ; a write
to STATUS is not affected. -/
def Obligations.BusyWritesRejected : Prop :=
  ∀ (s : State) (off : Offset) (v : Word), s.phase ≠ .idle →
    ((off ∈ [0x0000#16, 0x0008#16, 0x0010#16, 0x0014#16, 0x0018#16, 0x0028#16] ∨
        ∃ i, i < s.params.pbCap.val ∧ off.toNat = 0x2000 + 4 * i) →
      GoesTo (react (.hostWrite .word off v) s) { s with rej := true }) ∧
    GoesTo (react (.hostWrite .word 0x0004 v) s) { s with rej := s.rej && !v.getLsbD 2 }

/-- R106, R107, R108, R112: an idle write stores the fields of SCMD, REGADDR, PB_LEN and PRIM_IN, the read that follows
returns them with the reserved bits 0, and no command writes these registers. -/
def Obligations.OperandRegistersHoldWrites : Prop :=
  (∀ (s : State) (v : Word), s.phase = .idle →
    GoesTo (react (.hostWrite .word 0x0010 v) s) { s with lead := v.extractLsb' 0 8, subc := v.extractLsb' 8 8 } ∧
    GoesTo (react (.hostWrite .word 0x0014 v) s) { s with regAddr := v.extractLsb' 0 16 } ∧
    GoesTo (react (.hostWrite .word 0x0018 v) s) { s with pbLen := v.extractLsb' 0 16 } ∧
    GoesTo (react (.hostWrite .word 0x0028 v) s)
      { s with primIn0 := v.extractLsb' 0 8, primIn1 := v.extractLsb' 8 8 }) ∧
  (∀ (s t u : State) (v : Word) (off : Offset), s.phase = .idle →
    off ∈ [0x0010#16, 0x0014#16, 0x0018#16, 0x0028#16] →
    react (.hostWrite .word off v) s = .next t → react (.hostRead .word off) t = .next u →
    u.hostData = v &&& 0x0000FFFF) ∧
  (∀ (s t : State) (i : Instr), exec i s = .next t →
    t.lead = s.lead ∧ t.subc = s.subc ∧ t.regAddr = s.regAddr ∧ t.pbLen = s.pbLen ∧ t.primIn0 = s.primIn0 ∧
    t.primIn1 = s.primIn1)

/-- R115: an idle write to PB[i] stores v[7:0] there, changes no other byte of any buffer, and the read that follows
returns it zero-extended. -/
def Obligations.PayloadByteHoldsWrite : Prop :=
  ∀ (s : State) (i : Nat) (v : Word), s.phase = .idle → i < s.params.pbCap.val →
    ∃ t, react (.hostWrite .word (BitVec.ofNat 16 (0x2000 + 4 * i)) v) s = .next t ∧
      t = { s with epoch := t.epoch, mem := t.mem } ∧
      t.mem.read (0x2000 + 4 * i) = some (v.extractLsb' 0 8) ∧
      (∀ a, a ≠ 0x2000 + 4 * i → t.mem.read a = s.mem.read a) ∧
      react (.hostRead .word (BitVec.ofNat 16 (0x2000 + 4 * i))) t = .next { t with hostData := v &&& 0xFF }

/-- R115: PB changes only by an idle host write to that byte or by reset; no command and no engine step writes it. -/
def Obligations.PayloadWrittenOnlyByHost : Prop :=
  ∀ (s t : State) (j : Nat), step s = .next t → j < s.params.pbCap.val →
    t.mem.read (Buf.pb.addr j) = s.mem.read (Buf.pb.addr j) ∨ nextInput s = .reset ∨
    (s.phase = .idle ∧ ∃ v : Word, nextInput s = .hostWrite .word (BitVec.ofNat 16 (Buf.pb.addr j)) v ∧
      t.mem.read (Buf.pb.addr j) = some (v.extractLsb' 0 8))

/-- R105, R109 to R111, R113, R114, R116 to R118, R211, R601: what the read-only registers and the WB, IB and RB bytes
below their length registers read as while no command runs, with the number of each CLASS; and that a host write to any
of these registers or windows is ignored and does not set REJ, idle or BUSY (for BUSY, the model's reading of R119 beside
R202: log entry 12). -/
def Obligations.ReadOnlyRegisters : Prop :=
  (∀ s : State, s.phase = .idle →
    (∃ w : Word, react (.hostRead .word 0x000C) s = .next { s with hostData := w } ∧
      w.extractLsb' 0 3 = (match s.result.cls with
        | .ok => 0 | .param => 1 | .dataLen => 2 | .protocol => 3 | .timeout => 4 | .cmdState => 5 | .devStatus => 6) ∧
      w.extractLsb' 3 5 = 0 ∧
      w.extractLsb' 8 7 = s.result.devCode ∧ w.getLsbD 15 = s.result.devErr ∧ w.extractLsb' 16 16 = 0) ∧
    react (.hostRead .word 0x001C) s = .next { s with hostData := s.wbLen.setWidth 32 } ∧
    react (.hostRead .word 0x0020) s = .next { s with hostData := s.ibLen.setWidth 32 } ∧
    react (.hostRead .word 0x0024) s = .next { s with hostData := s.rbLen.setWidth 32 } ∧
    (∃ w : Word, react (.hostRead .word 0x002C) s = .next { s with hostData := w } ∧
      w.extractLsb' 0 2 = s.primOut.cnt ∧ w.extractLsb' 2 6 = 0 ∧ w.extractLsb' 8 8 = s.primOut.o0 ∧
      w.extractLsb' 16 8 = s.primOut.o1 ∧ w.extractLsb' 24 8 = 0) ∧
    react (.hostRead .word 0x0030) s = .next { s with hostData := s.chk.setWidth 32 } ∧
    react (.hostRead .word 0x0008) s = .next { s with hostData := 0 } ∧
    (∀ (off : Offset) (i : Nat) (b : Byte), s.mem.read off.toNat = some b →
      (off.toNat = 0x4000 + 4 * i ∧ i < s.wbLen.toNat ∧ i < s.params.wbCap ∨
        off.toNat = 0x6000 + 4 * i ∧ i < s.ibLen.toNat ∧ i < s.params.ibCap.val ∨
        off.toNat = 0x8000 + 4 * i ∧ i < s.rbLen.toNat ∧ i < s.params.rbCap) →
      react (.hostRead .word off) s = .next { s with hostData := b.setWidth 32 })) ∧
  (∀ (s : State) (v : Word) (off : Offset),
    (off ∈ [0x000C#16, 0x001C#16, 0x0020#16, 0x0024#16, 0x002C#16, 0x0030#16] ∨
      (off.toNat % 4 = 0 ∧ 0x4000 ≤ off.toNat ∧ off.toNat < 0xA000)) →
    GoesTo (react (.hostWrite .word off v) s) s)

/-- R721: while BUSY the four registers a running command may write read as some value whose reserved bits are 0, and a
byte of the WB, IB or RB window as some zero-extended byte; CTRL, SCMD, REGADDR, PB_LEN, PRIM_IN, PRIM_OUT, CHK and every
written PB byte read their values as usual (STATUS too: StatusFieldsAndWrite). -/
def Obligations.ReadsWhileBusy : Prop :=
  (∀ (s t : State) (off : Offset), s.phase ≠ .idle → react (.hostRead .word off) s = .next t →
    (off = 0x000C#16 → t.hostData &&& 0xFFFF00F8 = 0) ∧
    (off ∈ [0x001C#16, 0x0020#16, 0x0024#16] → t.hostData &&& 0xFFFF0000 = 0) ∧
    (0x4000 ≤ off.toNat → off.toNat < 0xA000 → t.hostData &&& 0xFFFFFF00 = 0)) ∧
  (∀ s : State, s.phase ≠ .idle →
    react (.hostRead .word 0x0000) s = .next { s with
      hostData := match s.xport with | .none => 0 | .stream => 1 | .bus => 2 } ∧
    (∃ w : Word, react (.hostRead .word 0x0010) s = .next { s with hostData := w } ∧
      w.extractLsb' 0 8 = s.lead ∧ w.extractLsb' 8 8 = s.subc ∧ w.extractLsb' 16 16 = 0) ∧
    react (.hostRead .word 0x0014) s = .next { s with hostData := s.regAddr.setWidth 32 } ∧
    react (.hostRead .word 0x0018) s = .next { s with hostData := s.pbLen.setWidth 32 } ∧
    (∃ w : Word, react (.hostRead .word 0x0028) s = .next { s with hostData := w } ∧
      w.extractLsb' 0 8 = s.primIn0 ∧ w.extractLsb' 8 8 = s.primIn1 ∧ w.extractLsb' 16 16 = 0) ∧
    (∃ w : Word, react (.hostRead .word 0x002C) s = .next { s with hostData := w } ∧
      w.extractLsb' 0 2 = s.primOut.cnt ∧ w.extractLsb' 2 6 = 0 ∧ w.extractLsb' 8 8 = s.primOut.o0 ∧
      w.extractLsb' 16 8 = s.primOut.o1 ∧ w.extractLsb' 24 8 = 0) ∧
    react (.hostRead .word 0x0030) s = .next { s with hostData := s.chk.setWidth 32 } ∧
    (∀ (off : Offset) (i : Nat) (b : Byte), off.toNat = 0x2000 + 4 * i → i < s.params.pbCap.val →
      s.mem.read off.toNat = some b → react (.hostRead .word off) s = .next { s with hostData := b.setWidth 32 }))

/-! Reset and the invariant -/

/-- R700: the reset input, whatever PHASE holds: every register and internal field at its reset value, every buffer byte
unwritten, the command and the bus request gone, the receive queue kept; and from then on, for as long as no new bus write
(read) has been started, a completion (delivery) for the withdrawn request has no effect: in every state outside BUS_WR
(BUS_RD) it changes nothing (log entry 9). -/
def Obligations.ResetInput : Prop :=
  (∀ s : State, ∃ t, react .reset s = .next t ∧
    t.xport = .none ∧ t.done = false ∧ t.rej = false ∧ t.rxst = .awaitDelim ∧ t.phase = .idle ∧
    t.result = plainResult .ok ∧ t.lead = 0 ∧ t.subc = 0 ∧ t.regAddr = 0 ∧ t.pbLen = 0 ∧ t.wbLen = 0 ∧
    t.ibLen = 0 ∧ t.rbLen = 0 ∧ t.primIn0 = 0 ∧ t.primIn1 = 0 ∧ t.primOut = { cnt := 0, o0 := 0, o1 := 0 } ∧
    t.chk = 0 ∧ t.tmr = 0 ∧ t.txi = 0 ∧ t.latch = { op := 0, long := false, trunc := false, n := 0 } ∧
    (∀ b i, written t b i = false) ∧ txOffer t = none ∧ t.busReq = none ∧ t.rxQueue = s.rxQueue) ∧
  (∀ (u : State) (status : Byte), u.phase ≠ .busWr → react (.busDone status) u = .next u) ∧
  (∀ (u : State) (d : List Byte), u.phase ≠ .busRd → react (.busData d) u = .next u)

/-- 10 section 6, R700, R712: right after reset every register of the map reads 0. -/
def Obligations.RegistersReadZeroAtReset : Prop :=
  ∀ off ∈ [0x0000#16, 0x0004#16, 0x0008#16, 0x000C#16, 0x0010#16, 0x0014#16, 0x0018#16, 0x001C#16, 0x0020#16,
    0x0024#16, 0x0028#16, 0x002C#16, 0x0030#16],
    react (.hostRead .word off) State.reset = .next { State.reset with hostData := 0 }

/-- The invariant holds at reset. -/
def Obligations.InvariantAtReset : Prop := BlockInv State.reset

/-- The invariant is kept by every step, whatever the host and the environment do. -/
def Obligations.InvariantKept : Prop := ∀ s t : State, BlockInv s → step s = .next t → BlockInv t

/-- R6: no step changes a parameter, and T_SET_L is greater than T_SET_S. -/
def Obligations.ParametersFixed : Prop :=
  ∀ s t : State, step s = .next t → t.params = s.params ∧ s.params.tSetS < s.params.tSetL

/-! Checks that end in PARAM -/

/-- R321: a command whose codec XPORT does not select finishes with PARAM and changes nothing else; the primitives run the
same whatever XPORT holds. -/
def Obligations.TransportMustMatch : Prop :=
  (∀ (s : State) (b : Bool) (n : Count), s.phase = .idle → s.xport ≠ .stream →
    exec (.sEncode b) s = .next (paramOnly s) ∧ exec (.sSend b) s = .next (paramOnly s) ∧
    exec (.sRecv n) s = .next (paramOnly s)) ∧
  (∀ (s : State) (b : Bool) (n : Count), s.phase = .idle → s.xport ≠ .bus →
    exec .bEncode s = .next (paramOnly s) ∧ exec (.bSend b) s = .next (paramOnly s) ∧
    exec (.bRecv b n) s = .next (paramOnly s)) ∧
  (∀ (s t : State) (x : Transport) (i : Instr), i ∈ [.stuff, .unstuff, .cksum, .crc8] → exec i s = .next t →
    exec i { s with xport := x } = .next { t with xport := x })

/-- R322: PB_LEN above PB_CAP ends S_ENCODE, B_ENCODE, CKSUM and CRC8 with PARAM, and N above IB_CAP ends S_RECV and
B_RECV with PARAM. -/
def Obligations.OversizeIsParam : Prop :=
  ∀ (s : State) (b : Bool) (n : Count), s.phase = .idle →
    (s.params.pbCap.val < s.pbLen.toNat →
      exec (.sEncode b) s = .next (paramOnly s) ∧ exec .bEncode s = .next (paramOnly s) ∧
      exec .cksum s = .next (paramOnly s) ∧ exec .crc8 s = .next (paramOnly s)) ∧
    (s.params.ibCap.val < n.toNat →
      exec (.sRecv n) s = .next (paramOnly s) ∧ exec (.bRecv b n) s = .next (paramOnly s))

/-- R410, R412, R452, R460: the commands' own checks: form A with a payload, form B with more than 254 payload bytes, an
odd bus payload, and a send with nothing encoded end with PARAM. -/
def Obligations.OwnChecksAreParam : Prop :=
  ∀ (s : State) (b : Bool), s.phase = .idle →
    (s.pbLen ≠ 0 → exec (.sEncode false) s = .next (paramOnly s)) ∧
    (254 < s.pbLen.toNat → exec (.sEncode true) s = .next (paramOnly s)) ∧
    (s.pbLen.toNat % 2 = 1 → exec .bEncode s = .next (paramOnly s)) ∧
    (s.wbLen = 0 → exec (.sSend b) s = .next (paramOnly s) ∧ exec (.bSend b) s = .next (paramOnly s))

/-! The encoders -/

/-- R410: S_ENCODE completes and leaves exactly the frame of its form in WB, byte by byte, its length in WB_LEN, RESULT
OK and DONE; every other byte of the buffers and every other register but the latch is unchanged. -/
def Obligations.SEncodeBuildsFrame : Prop :=
  ∀ (s : State) (sub : Bool) (p : List Byte), s.phase = .idle → s.xport = .stream →
    s.pbLen.toNat ≤ s.params.pbCap.val → s.pbLen.toNat = p.length →
    (∀ k (h : k < p.length), s.mem.read (0x2000 + 4 * k) = some p[k]) →
    (sub = false → p = []) → p.length ≤ 254 →
    ∃ t body frame, exec (.sEncode sub) s = .next t ∧
      body = (if sub then [0x00, s.lead, BitVec.ofNat 8 (1 + p.length), s.subc] ++ p else [0x00, s.lead, 0x00]) ∧
      frame = [0x7E] ++ stuffAll (body ++ [cks8 body]) ++ [0x7E] ∧
      t.wbLen.toNat = frame.length ∧
      (∀ k (h : k < frame.length), t.mem.read (0x4000 + 4 * k) = some frame[k]) ∧
      (∀ a, (∀ k, k < frame.length → a ≠ 0x4000 + 4 * k) → t.mem.read a = s.mem.read a) ∧
      t = { s with mem := t.mem, wbLen := t.wbLen, result := plainResult .ok, done := true,
                   latch := { op := 0x1, long := false, trunc := false, n := 0 } }

/-- R452: B_ENCODE completes and leaves exactly the transaction in WB: the address big-endian, then each pair of payload
bytes with its own CRC-8; every other byte and every other register but the latch is unchanged. -/
def Obligations.BEncodeBuildsTransaction : Prop :=
  ∀ (s : State) (p : List Byte), s.phase = .idle → s.xport = .bus →
    s.pbLen.toNat ≤ s.params.pbCap.val → s.pbLen.toNat = p.length → p.length % 2 = 0 →
    (∀ k (h : k < p.length), s.mem.read (0x2000 + 4 * k) = some p[k]) →
    ∃ t, exec .bEncode s = .next t ∧
      t.wbLen.toNat = 2 + 3 * (p.length / 2) ∧
      t.mem.read 0x4000 = some (s.regAddr.extractLsb' 8 8) ∧ t.mem.read 0x4004 = some (s.regAddr.extractLsb' 0 8) ∧
      (∀ k (h : 2 * k + 1 < p.length),
        t.mem.read (0x4000 + 4 * (2 + 3 * k)) = some p[2 * k] ∧
        t.mem.read (0x4000 + 4 * (3 + 3 * k)) = some p[2 * k + 1] ∧
        t.mem.read (0x4000 + 4 * (4 + 3 * k)) = some (crc8 [p[2 * k], p[2 * k + 1]])) ∧
      (∀ a, (∀ k, k < 2 + 3 * (p.length / 2) → a ≠ 0x4000 + 4 * k) → t.mem.read a = s.mem.read a) ∧
      t = { s with mem := t.mem, wbLen := t.wbLen, result := plainResult .ok, done := true,
                   latch := { op := 0x5, long := false, trunc := false, n := 0 } }

/-- R7, R324: form A frames are 6 to 8 bytes long, form B frames 7 + P to 11 + 2P, a bus transaction 2 + 3*(P div 2), and
each that comes from at most PB_CAP payload bytes is shorter than WB_CAP. -/
def Obligations.EncodingsFitWireBuffer : Prop :=
  (∀ lead : Byte, 6 ≤ (streamFrame (bodyA lead)).length ∧ (streamFrame (bodyA lead)).length ≤ 8) ∧
  (∀ (lead subc : Byte) (p : List Byte),
    7 + p.length ≤ (streamFrame (bodyB lead subc p)).length ∧
    (streamFrame (bodyB lead subc p)).length ≤ 11 + 2 * p.length) ∧
  (∀ (a : BitVec 16) (p : List Byte), (busTransaction a p).length = 2 + 3 * (p.length / 2)) ∧
  (∀ (c : Params) (a : BitVec 16) (lead subc : Byte) (p : List Byte), p.length ≤ c.pbCap.val →
    (streamFrame (bodyA lead)).length < c.wbCap ∧ (streamFrame (bodyB lead subc p)).length < c.wbCap ∧
    (busTransaction a p).length < c.wbCap)

/-! Sending -/

/-- R412, R414, R413: from every idle state with WB_LEN not 0, S_SEND completes its acceptance and enters TX; where WB's
first WB_LEN bytes are written, the transport's accepts take exactly WB[0..WB_LEN-1] in order; then T Ticks later, and no
sooner, the command has finished with OK, WB_LEN 0 and the buffers as they were. -/
def Obligations.SSendTransmitsFrame : Prop :=
  ∀ (s : State) (long : Bool), s.phase = .idle → s.xport = .stream → s.wbLen ≠ 0 →
    ∃ u, exec (.sSend long) s = .next u ∧
      u = { s with done := false, phase := .tx, txi := 0, latch := { op := 0x2, long := long, trunc := false, n := 0 } } ∧
      (Written s.mem .wb s.wbLen.toNat →
        (∀ k, k < s.wbLen.toNat → (txAcceptStep^[k] u).phase = .tx ∧
          (txAcceptStep^[k] u).txWire = s.txWire ++ (wireBytes s).take k) ∧
        (∀ T, T = (if long then s.params.tSetL else s.params.tSetS) →
          (∀ k, k < T → (tickStep^[k] (txAcceptStep^[s.wbLen.toNat] u)).phase = .settle) ∧
          ∃ t, t = tickStep^[T] (txAcceptStep^[s.wbLen.toNat] u) ∧ t.phase = .idle ∧ t.done = true ∧
            t.result = plainResult .ok ∧ t.wbLen = 0 ∧ t.mem = s.mem ∧ t.txWire = s.txWire ++ wireBytes s))

/-- R414: in TX the block offers WB[TXI]; an accept takes it and, at the last byte, enters SETTLE with TMR 0, or finishes
at once where T is 0; nothing but an accept or reset leaves TX, and Ticks change nothing. -/
def Obligations.OnlyAcceptsAdvanceTx : Prop :=
  ∀ (s : State), s.phase = .tx →
    txOffer s = some (byteOf s .wb s.txi) ∧
    (∃ t, react .txAccept s = .next t ∧ t.txi = s.txi + 1 ∧ t.txWire = s.txWire ++ [byteOf s .wb s.txi] ∧
      (s.txi + 1 ≠ s.wbLen.toNat → t.phase = .tx ∧ t.wbLen = s.wbLen) ∧
      (s.txi + 1 = s.wbLen.toNat → settleTime s ≠ 0 → t.phase = .settle ∧ t.tmr = 0 ∧ t.wbLen = s.wbLen) ∧
      (s.txi + 1 = s.wbLen.toNat → settleTime s = 0 →
        t.phase = .idle ∧ t.done = true ∧ t.result = plainResult .ok ∧ t.wbLen = 0)) ∧
    react .tick s = .next s ∧
    (∀ (i : Input) (t : State), react i s = .next t → i ≠ .txAccept → i ≠ .reset → t.phase = .tx ∧ t.txi = s.txi)

/-- R413: from any point of SETTLE with TMR below T, every Tick before the last counts one, the Tick that makes TMR = T
finishes the send with WB_LEN 0 and OK, and no other event but reset ends SETTLE. -/
def Obligations.SettleDelayLastsT : Prop :=
  ∀ s : State, s.phase = .settle → s.tmr < settleTime s →
    (∀ k, k < settleTime s - s.tmr → (tickStep^[k] s).phase = .settle ∧ (tickStep^[k] s).tmr = s.tmr + k ∧
      (tickStep^[k] s).wbLen = s.wbLen ∧ (tickStep^[k] s).done = s.done) ∧
    (∃ t, t = tickStep^[settleTime s - s.tmr] s ∧
      t = { s with tmr := settleTime s, epoch := t.epoch, wbLen := 0, result := plainResult .ok, phase := .idle,
                   done := true }) ∧
    (∀ (i : Input) (t : State), react i s = .next t → i ≠ .tick → i ≠ .reset → t.phase = .settle ∧ t.tmr = s.tmr)

/-- R460, R470: B_SEND and B_RECV complete their acceptance: PHASE BUS_WR with one bus write of WB[0..WB_LEN-1] to
BUS_DEV_ADDR, and PHASE BUS_RD with one read request of (N div 2) * 3 bytes to BUS_DEV_ADDR. -/
def Obligations.BusCommandsIssueOneRequest : Prop :=
  (∀ (s : State) (long : Bool), s.phase = .idle → s.xport = .bus → s.wbLen ≠ 0 →
    exec (.bSend long) s = .next { s with
      done := false, phase := .busWr, busReq := some (.write s.params.busDevAddr (wireBytes s)),
      latch := { op := 0x6, long := long, trunc := false, n := 0 } }) ∧
  (∀ (s : State) (trunc : Bool) (n : Count), s.phase = .idle → s.xport = .bus → n.toNat ≤ s.params.ibCap.val →
    exec (.bRecv trunc n) s = .next { s with
      done := false, phase := .busRd, busReq := some (.read s.params.busDevAddr (n.toNat / 2 * 3)),
      latch := { op := 0x7, long := false, trunc := trunc, n := n } })

/-- R461: a completion with a non-zero status finishes B_SEND with PROTOCOL and WB_LEN 0 and no settle; one with status 0
enters SETTLE with TMR 0 (where T is not 0), and after T Ticks the command has finished with WB_LEN 0 and OK. -/
def Obligations.BusCompletionEndsWrite : Prop :=
  ∀ (s : State) (status : Byte), s.phase = .busWr →
    (status ≠ 0 → GoesTo (react (.busDone status) s) { s with
      busReq := none, wbLen := 0, result := plainResult .protocol, phase := .idle, done := true }) ∧
    (status = 0 → ∃ u, react (.busDone status) s = .next u ∧
      (settleTime s ≠ 0 → u = { s with epoch := u.epoch, busReq := none, tmr := 0, phase := .settle }) ∧
      ∃ t, t = tickStep^[settleTime s] u ∧
        t = { s with epoch := t.epoch, busReq := none, tmr := settleTime s, wbLen := 0, result := plainResult .ok,
                     phase := .idle, done := true })

/-- R479: Ticks do not advance BUS_WR or BUS_RD, and only the bus's own answer or reset ends them. -/
def Obligations.BusWaitsHaveNoTimeout : Prop :=
  ∀ s : State, (s.phase = .busWr ∨ s.phase = .busRd) →
    (∀ k, tickStep^[k] s = s) ∧
    (∀ (i : Input) (t : State), react i s = .next t → i ≠ .reset →
      (s.phase = .busWr → ∀ status, i ≠ .busDone status) → (s.phase = .busRd → ∀ d, i ≠ .busData d) →
      t.phase = s.phase ∧ t.busReq = s.busReq)

/-! Receiving from the stream -/

/-- R420: S_RECV completes its acceptance: RXST AWAIT_DELIM, RB_LEN 0, TMR 0, PHASE RX, EXP in the latch. -/
def Obligations.SRecvStartsReassembly : Prop :=
  ∀ (s : State) (n : Count), s.phase = .idle → s.xport = .stream → n.toNat ≤ s.params.ibCap.val →
    exec (.sRecv n) s = .next { s with
      done := false, rxst := .awaitDelim, rbLen := 0, tmr := 0, phase := .rx,
      latch := { op := 0x3, long := false, trunc := false, n := n } }

/-- R421, R414, R730, R437: a byte step is enabled only in RX with the machine open and a queued byte; it takes the first
byte and leaves the rest queued. That a byte step, a transport accept or a Tick which comes while it is not enabled
changes nothing is the model's reading (log entry 9), for the Tick R730's own words. -/
def Obligations.EventsActOnlyWhenEnabled : Prop :=
  ∀ s : State,
    (s.phase ≠ .rx ∨ s.rxst = .done ∨ s.rxst = .error ∨ s.rxQueue = [] → react .rxTake s = .next s) ∧
    (∀ b q, s.phase = .rx → (s.rxst = .awaitDelim ∨ s.rxst = .inBody ∨ s.rxst = .escape) → s.rxQueue = b :: q →
      ∃ t n, react .rxTake s = .next t ∧ t = rxByte b { s with rxQueue := q, epoch := n } ∧ t.rxQueue = q) ∧
    (s.phase ≠ .tx → react .txAccept s = .next s) ∧
    (s.phase ∈ [Phase.idle, .tx, .busWr, .busRd] → react .tick s = .next s)

/-- R422 to R425: the transitions on a taken byte `b`, with the RESULT and RXST each leaves. -/
def Obligations.ReassemblyTransitions : Prop :=
  ∀ (s : State) (b x : Byte),
    (s.rxst = .awaitDelim → rxByte b s = if b = 0x7E then { s with rxst := .inBody } else failReceive .protocol s) ∧
    (s.rxst = .inBody → b = 0x7E → rxByte b s = validate { s with rxst := .done }) ∧
    (s.rxst = .inBody → b = 0x7D → rxByte b s = { s with rxst := .escape }) ∧
    (s.rxst = .inBody → b ≠ 0x7E → b ≠ 0x7D → rxByte b s = storeBody b s) ∧
    (s.rxst = .escape → b ∈ [0x31#8, 0x33#8, 0x5D#8, 0x5E#8] → rxByte b s = storeBody (b ^^^ 0x20) s) ∧
    (s.rxst = .escape → b ∉ [0x31#8, 0x33#8, 0x5D#8, 0x5E#8] → rxByte b s = failReceive .protocol s) ∧
    (s.rbLen.toNat = s.params.rbCap → storeBody x s = failReceive .protocol s) ∧
    (s.rbLen.toNat ≠ s.params.rbCap → storeBody x s = { s with
      mem := s.mem.write (0x8000 + 4 * s.rbLen.toNat) x, rbLen := s.rbLen + 1, rxst := .inBody }) ∧
    failReceive .protocol s = { s with
      rxst := .error, ibLen := 0, result := plainResult .protocol, phase := .idle, done := true }

/-- R430 to R436: the validation of a raw body of `m` bytes, check by check in its order, and, on success, the payload
RB[4..m-2] in IB with its length; nothing else of the buffers changes. -/
def Obligations.ValidationChecksInOrder : Prop :=
  ∀ (s : State) (m p : Nat), s.rbLen.toNat = m → p = (if 5 ≤ m then m - 5 else 0) →
    (m < 3 → validate s = { s with ibLen := 0, result := plainResult .protocol, phase := .idle, done := true }) ∧
    (3 ≤ m → cks8 (bytesFrom s .rb 0 (m - 1)) ≠ byteOf s .rb (m - 1) →
      validate s = { s with ibLen := 0, result := plainResult .protocol, phase := .idle, done := true }) ∧
    (3 ≤ m → cks8 (bytesFrom s .rb 0 (m - 1)) = byteOf s .rb (m - 1) →
      (byteOf s .rb 2 ≠ 0 → validate s = { s with
        ibLen := 0, phase := .idle, done := true,
        result := { cls := .devStatus, devCode := (byteOf s .rb 2).extractLsb' 0 7,
                    devErr := (byteOf s .rb 2).getLsbD 7 } }) ∧
      (byteOf s .rb 2 = 0 →
        (5 ≤ m → (byteOf s .rb 3).toNat ≠ m - 5 →
          validate s = { s with ibLen := 0, result := plainResult .dataLen, phase := .idle, done := true }) ∧
        ((5 ≤ m → (byteOf s .rb 3).toNat = m - 5) → p ≠ s.latch.n.toNat →
          validate s = { s with ibLen := 0, result := plainResult .dataLen, phase := .idle, done := true }) ∧
        ((5 ≤ m → (byteOf s .rb 3).toNat = m - 5) → p = s.latch.n.toNat →
          ∃ t, validate s = t ∧
            t = { s with mem := t.mem, ibLen := BitVec.ofNat 16 p, result := plainResult .ok, phase := .idle,
                         done := true } ∧
            (∀ k, k < p → t.mem.read (0x6000 + 4 * k) = some (byteOf s .rb (4 + k))) ∧
            (∀ a, (∀ k, k < p → a ≠ 0x6000 + 4 * k) → t.mem.read a = s.mem.read a))))

/-- R428: TMR is 0 when S_RECV starts; a Tick in RX counts one and times out when it makes TMR exceed T_RX; so after
exactly T_RX + 1 - TMR Ticks without a byte, and not before, the command has finished with TIMEOUT, and until then a
queued byte is still taken. -/
def Obligations.ReceiveTimesOut : Prop :=
  (∀ (s t : State) (n : Count), exec (.sRecv n) s = .next t → t.phase = .rx → t.tmr = 0) ∧
  (∀ s : State, s.phase = .rx → (s.rxst = .awaitDelim ∨ s.rxst = .inBody ∨ s.rxst = .escape) →
    s.tmr ≤ s.params.tRx →
    (∀ k, k < s.params.tRx + 1 - s.tmr →
      (∃ n, tickStep^[k] s = { s with tmr := s.tmr + k, epoch := n }) ∧
      (∀ b q, s.rxQueue = b :: q → (rxTakeStep (tickStep^[k] s)).rxQueue = q)) ∧
    ∃ n, tickStep^[s.params.tRx + 1 - s.tmr] s = { s with
      tmr := s.params.tRx + 1, epoch := n, rxst := .error, ibLen := 0, result := plainResult .timeout, phase := .idle,
      done := true })

/-- R313, R403, R423 to R425: the reassembly machine undoes stuffing: fed the stuffed form of any list of raw bytes for
which RB has room, it stores exactly those bytes, in order, and is back in IN_BODY with nothing else changed. -/
def Obligations.StuffedBodyIsReassembled : Prop :=
  ∀ (s : State) (l : List Byte), s.rxst = .inBody → s.rbLen.toNat + l.length ≤ s.params.rbCap →
    ∃ t, (stuffAll l).foldl (fun u b => rxByte b u) s = t ∧
      t = { s with mem := t.mem, rbLen := t.rbLen } ∧ t.rbLen.toNat = s.rbLen.toNat + l.length ∧
      (∀ k (h : k < l.length), t.mem.read (0x8000 + 4 * (s.rbLen.toNat + k)) = some l[k]) ∧
      (∀ a, (∀ k, k < l.length → a ≠ 0x8000 + 4 * (s.rbLen.toNat + k)) → t.mem.read a = s.mem.read a)

/-- R420 to R437: the whole of a stream receive: S_RECV, then one byte step per byte of a response frame with status 0,
the right length byte and a payload of the expected length, ends with OK, the payload in IB and its length in IB_LEN, the
raw body in RB, RXST DONE, and the bytes after the frame still queued. -/
def Obligations.ResponseFrameIsReceived : Prop :=
  ∀ (s : State) (n : Count) (addr echo : Byte) (p body rest : List Byte), s.phase = .idle → s.xport = .stream →
    n.toNat = p.length → p.length ≤ s.params.ibCap.val → p.length + 5 ≤ s.params.rbCap → p.length ≤ 255 →
    body = [addr, echo, 0x00, BitVec.ofNat 8 p.length] ++ p → s.rxQueue = streamFrame body ++ rest →
    ∃ u t, exec (.sRecv n) s = .next u ∧ t = rxTakeStep^[(streamFrame body).length] u ∧
      t.phase = .idle ∧ t.done = true ∧ t.result = plainResult .ok ∧ t.rxst = .done ∧ t.rxQueue = rest ∧
      t.ibLen.toNat = p.length ∧ bytesFrom t .ib 0 p.length = p ∧
      t.rbLen.toNat = p.length + 5 ∧ bytesFrom t .rb 0 (p.length + 5) = body ++ [cks8 body]

/-! Receiving from the bus -/

/-- R471, R472, R478: the delivery of `d` ends B_RECV in one step: PROTOCOL and IB_LEN 0 when nothing arrives; else the
class of the scan of the triples, with the accepted bytes in IB and their count in IB_LEN on OK, and IB_LEN 0 otherwise;
IB never receives more than N bytes. -/
def Obligations.DeliveryEndsBusRead : Prop :=
  ∀ (s : State) (d : List Byte), s.phase = .busRd →
    ∃ t, react (.busData d) s = .next t ∧ t.phase = .idle ∧ t.done = true ∧ t.busReq = none ∧
      (d = [] → t.result = plainResult .protocol ∧ t.ibLen = 0 ∧ t.mem = s.mem) ∧
      (d ≠ [] → t.result = plainResult (scanTriples s.latch.n.toNat s.latch.trunc d []).cls) ∧
      (t.result.cls ≠ .ok → t.ibLen = 0 ∧ t.mem = s.mem) ∧
      (t.result.cls = .ok → t.ibLen.toNat ≤ s.latch.n.toNat ∧ (s.latch.trunc = false → t.ibLen = s.latch.n) ∧
        bytesFrom t .ib 0 t.ibLen.toNat = (scanTriples s.latch.n.toNat s.latch.trunc d []).data ∧
        (∀ a, (∀ k, k < t.ibLen.toNat → a ≠ 0x6000 + 4 * k) → t.mem.read a = s.mem.read a)) ∧
      t = { s with mem := t.mem, ibLen := t.ibLen, result := t.result, phase := .idle, done := true, busReq := none,
                   epoch := t.epoch }

/-- R315, R316, R478: reading back what the encoder sends: a delivery of the protected pairs of `p` is accepted, without
truncation, exactly as `p` when the requested count is its length. -/
def Obligations.ProtectedPairsRoundTrip : Prop :=
  ∀ p : List Byte, p ≠ [] → p.length % 2 = 0 →
    scanDelivery p.length false (crcPairs p) = { cls := .ok, data := p }

/-- R473: the first triple with a wrong CRC ends the read with PROTOCOL, whatever correct pairs came before it (none of
them a terminator in truncation mode, and not more than N bytes) and whatever follows. -/
def Obligations.CrcMismatchIsProtocol : Prop :=
  ∀ (n : Nat) (trunc : Bool) (p rest : List Byte) (d0 d1 c : Byte), p.length % 2 = 0 → p.length ≤ n →
    (trunc = true → ∀ k (h : 2 * k + 1 < p.length), ¬ (p[2 * k] = 0 ∧ p[2 * k + 1] = 0)) → crc8 [d0, d1] ≠ c →
    scanDelivery n trunc (crcPairs p ++ [d0, d1, c] ++ rest) = { cls := .protocol, data := [] }

/-- R474: in truncation mode a zero pair with its CRC 0x81 stops the read with OK and the bytes before it, and whatever
follows is discarded. -/
def Obligations.TruncationStopsAtZeroPair : Prop :=
  ∀ (n : Nat) (p rest : List Byte), p.length % 2 = 0 → p.length ≤ n →
    (∀ k (h : 2 * k + 1 < p.length), ¬ (p[2 * k] = 0 ∧ p[2 * k + 1] = 0)) →
    scanDelivery n true (crcPairs p ++ [0x00, 0x00, 0x81] ++ rest) = { cls := .ok, data := p }

/-- R475 to R477: correct pairs that are too many, too few, or followed by one or two stray bytes end with DATALEN (with
no terminator among them in truncation mode). -/
def Obligations.WrongCountIsDataLen : Prop :=
  ∀ (n : Nat) (trunc : Bool) (p stray : List Byte), p.length % 2 = 0 → stray.length ≤ 2 → crcPairs p ++ stray ≠ [] →
    (trunc = true → ∀ k (h : 2 * k + 1 < p.length), ¬ (p[2 * k] = 0 ∧ p[2 * k + 1] = 0)) →
    (stray ≠ [] ∨ p.length ≠ n) →
    scanDelivery n trunc (crcPairs p ++ stray) = { cls := .dataLen, data := [] }

/-! The primitives -/

/-- R500: STUFF completes on every operand: CNT 2 with the escape pair for the four reserved bytes, CNT 1 with the byte
itself otherwise; nothing but PRIM_OUT, RESULT, DONE and the latch changes. -/
def Obligations.StuffResult : Prop :=
  ∀ s : State, s.phase = .idle →
    exec .stuff s = .next { s with
      primOut :=
        if s.primIn0 ∈ [0x11#8, 0x13#8, 0x7D#8, 0x7E#8] then { cnt := 2, o0 := 0x7D, o1 := s.primIn0 ^^^ 0x20 }
        else { cnt := 1, o0 := s.primIn0, o1 := 0 },
      result := plainResult .ok, done := true, latch := { op := 0x8, long := false, trunc := false, n := 0 } }

/-- R501: UNSTUFF completes on every operand: a delimiter or a bad escape is PROTOCOL with PRIM_OUT 0, a good escape gives
CNT 2 and the raw byte, any other byte CNT 1 and itself. -/
def Obligations.UnstuffResult : Prop :=
  ∀ s : State, s.phase = .idle →
    exec .unstuff s = .next (
      if s.primIn0 = 0x7E ∨ (s.primIn0 = 0x7D ∧ s.primIn1 ∉ [0x31#8, 0x33#8, 0x5D#8, 0x5E#8]) then
        { s with primOut := { cnt := 0, o0 := 0, o1 := 0 }, result := plainResult .protocol, done := true,
                 latch := { op := 0x9, long := false, trunc := false, n := 0 } }
      else
        { s with primOut := if s.primIn0 = 0x7D then { cnt := 2, o0 := s.primIn1 ^^^ 0x20, o1 := 0 }
                            else { cnt := 1, o0 := s.primIn0, o1 := 0 },
                 result := plainResult .ok, done := true,
                 latch := { op := 0x9, long := false, trunc := false, n := 0 } })

/-- R502, R503: CKSUM and CRC8 complete over the written bytes of PB: CHK is the complemented 8-bit sum, or the CRC-8, of
PB[0..PB_LEN-1]; nothing but CHK, RESULT, DONE and the latch changes; PB_LEN above PB_CAP is PARAM with CHK unchanged. -/
def Obligations.CksumAndCrc8Results : Prop :=
  (∀ (s : State) (p : List Byte), s.phase = .idle → s.pbLen.toNat ≤ s.params.pbCap.val → s.pbLen.toNat = p.length →
    (∀ k (h : k < p.length), s.mem.read (0x2000 + 4 * k) = some p[k]) →
    exec .cksum s = .next { s with
      chk := ~~~ (BitVec.ofNat 8 (p.map BitVec.toNat).sum), result := plainResult .ok, done := true,
      latch := { op := 0xA, long := false, trunc := false, n := 0 } } ∧
    exec .crc8 s = .next { s with
      chk := crc8 p, result := plainResult .ok, done := true,
      latch := { op := 0xB, long := false, trunc := false, n := 0 } }) ∧
  (∀ s : State, s.phase = .idle → s.params.pbCap.val < s.pbLen.toNat →
    exec .cksum s = .next (paramOnly s) ∧ exec .crc8 s = .next (paramOnly s))

/-- R403: unstuffing what stuffing gives is the byte itself: a reserved byte b becomes the pair 0x7D, b ^ 0x20, which
unescapes to b; any other byte is sent as itself and stored as itself; and stuffing the unescaped value of each valid
escape pair is that pair. -/
def Obligations.StuffUnstuffRoundTrip : Prop :=
  (∀ b ∈ [0x11#8, 0x13#8, 0x7D#8, 0x7E#8], stuff b = [0x7D, b ^^^ 0x20] ∧ unescape (b ^^^ 0x20) = some b) ∧
  (∀ b : Byte, b ∉ [0x11#8, 0x13#8, 0x7D#8, 0x7E#8] → stuff b = [b] ∧
    ∀ s : State, s.rxst = .inBody → rxByte b s = storeBody b s) ∧
  (∀ v ∈ [0x11#8, 0x13#8, 0x7D#8, 0x7E#8], ∃ x, unescape (v ^^^ 0x20) = some x ∧ stuff x = [0x7D, v ^^^ 0x20])

/-- R451: the golden vector of the CRC-8 and its dependence on the order of the bytes. -/
def Obligations.CrcGoldenVector : Prop :=
  crc8 [0xBE, 0xEF] = 0x92 ∧ crc8 [0xEF, 0xBE] = 0xCE

/-- R450: the CRC-8 tells any two messages apart that differ in exactly one byte, wherever it stands. -/
def Obligations.CrcDetectsOneByteChange : Prop :=
  ∀ (l r : List Byte) (b c : Byte), b ≠ c → crc8 (l ++ b :: r) ≠ crc8 (l ++ c :: r)

/-! Whole-machine rules -/

/-- R704, R115: a step faults exactly when an accepted command reads a PB byte the host has not written since reset. That
every check which ends in PARAM (the transport, PB_LEN against PB_CAP, 254 bytes, evenness) comes before the fault is the
model's reading of the order of checks (log entry 4). -/
def Obligations.FaultIsUnwrittenPayload : Prop :=
  ∀ s : State, (∃ f, step s = .fault f) ↔
    (s.phase = .idle ∧ s.pbLen.toNat ≤ s.params.pbCap.val ∧ (∃ j, j < s.pbLen.toNat ∧ written s .pb j = false) ∧
      ∃ v, nextInput s = .hostWrite .word 0x0008 v ∧
        (decode v = .ok (.sEncode true) ∧ s.xport = .stream ∧ s.pbLen.toNat ≤ 254 ∨
          decode v = .ok .bEncode ∧ s.xport = .bus ∧ s.pbLen.toNat % 2 = 0 ∨
          decode v = .ok .cksum ∨ decode v = .ok .crc8))

/-- R203: a step is refused exactly when its input is a host access that is not a 32-bit access at a multiple of 4. -/
def Obligations.RefusalIsUnsupportedAccess : Prop :=
  ∀ s : State, (∃ r, step s = .refused r) ↔
    ∃ (size : AccessSize) (off : Offset), (size ≠ .word ∨ off.toNat % 4 ≠ 0) ∧
      (nextInput s = .hostRead size off ∨ ∃ v, nextInput s = .hostWrite size off v)

/-- R119, R126: REJ is set only by a host write while BUSY = 1 to CTRL, CMD, SCMD, REGADDR, PB_LEN, PRIM_IN or a PB byte
below PB_CAP (log entry 12: no other offset sets it), and cleared only by a host write of 1 to STATUS bit 2 or by
reset. -/
def Obligations.RejSetAndClearedOnlyByHost : Prop :=
  ∀ s t : State, step s = .next t → t.rej ≠ s.rej →
    (t.rej = true ∧ s.phase ≠ .idle ∧ ∃ off v, nextInput s = .hostWrite .word off v ∧
      (off ∈ [0x0000#16, 0x0008#16, 0x0010#16, 0x0014#16, 0x0018#16, 0x0028#16] ∨
        ∃ i, i < s.params.pbCap.val ∧ off.toNat = 0x2000 + 4 * i)) ∨
    (t.rej = false ∧ (nextInput s = .reset ∨ ∃ v : Word, nextInput s = .hostWrite .word 0x0004 v ∧ v.getLsbD 2 = true))

/-- R125, R437: the queue of stream bytes grows only by arrival, at its end, and shrinks only by a byte step of S_RECV, at
its front; nothing else, reset included, discards a byte. -/
def Obligations.QueuedBytesNeverDiscarded : Prop :=
  ∀ s t : State, step s = .next t →
    t.rxQueue = s.rxQueue ∨
    (∃ b, nextInput s = .rxArrive b ∧ t.rxQueue = s.rxQueue ++ [b]) ∨
    (nextInput s = .rxTake ∧ s.phase = .rx ∧ ∃ b, s.rxQueue = b :: t.rxQueue)

/-- R121: RXST is written only by S_RECV: at its start, by its byte steps and by its timeout; and by reset. -/
def Obligations.RxstWrittenOnlyBySRecv : Prop :=
  ∀ s t : State, step s = .next t → t.rxst ≠ s.rxst →
    nextInput s = .reset ∨
    (s.phase = .rx ∧ (nextInput s = .rxTake ∨ nextInput s = .tick)) ∨
    (s.phase = .idle ∧ t.rxst = .awaitDelim ∧
      ∃ v n, nextInput s = .hostWrite .word 0x0008 v ∧ decode v = .ok (.sRecv n))

/-- R103, R105, R126, R610, R601, R603: apart from reset, a step changes RESULT or sets DONE only where a command ends: in
an idle write to CMD, or in the engine step of the running command's own phase; then PHASE is IDLE and DONE is 1. A new
RESULT is never CMDSTATE, and its device fields are 0 for every class but DEVSTATUS. DONE is cleared only by reset or by
an idle write to CMD whose command runs on; and a command that is performed leaves DONE = 1 exactly if it has finished. -/
def Obligations.ResultWrittenOnlyByFinish : Prop :=
  (∀ s t : State, step s = .next t →
    (nextInput s ≠ .reset → (t.result ≠ s.result ∨ (t.done = true ∧ s.done = false)) →
      t.done = true ∧ t.phase = .idle ∧
      ((s.phase = .idle ∧ ∃ v, nextInput s = .hostWrite .word 0x0008 v) ∨
        (s.phase = .tx ∧ nextInput s = .txAccept) ∨ (s.phase = .settle ∧ nextInput s = .tick) ∨
        (s.phase = .rx ∧ (nextInput s = .rxTake ∨ nextInput s = .tick)) ∨
        (s.phase = .busWr ∧ ∃ status, nextInput s = .busDone status) ∨
        (s.phase = .busRd ∧ ∃ d, nextInput s = .busData d))) ∧
    (t.result ≠ s.result →
      t.result.cls ≠ .cmdState ∧ (t.result.cls ≠ .devStatus → t.result.devCode = 0 ∧ t.result.devErr = false)) ∧
    (s.done = true → t.done = false →
      nextInput s = .reset ∨ (s.phase = .idle ∧ t.phase ≠ .idle ∧ ∃ v, nextInput s = .hostWrite .word 0x0008 v))) ∧
  (∀ (s t : State) (i : Instr), s.phase = .idle → exec i s = .next t → (t.done = true ↔ t.phase = .idle))

/-- R113, R114: PRIM_OUT is written only by STUFF and UNSTUFF and CHK only by CKSUM and CRC8, apart from reset. -/
def Obligations.PrimitiveResultWriters : Prop :=
  ∀ s t : State, step s = .next t → nextInput s ≠ .reset →
    (t.primOut ≠ s.primOut →
      ∃ v, nextInput s = .hostWrite .word 0x0008 v ∧ (decode v = .ok .stuff ∨ decode v = .ok .unstuff)) ∧
    (t.chk ≠ s.chk →
      ∃ v, nextInput s = .hostWrite .word 0x0008 v ∧ (decode v = .ok .cksum ∨ decode v = .ok .crc8))

/-- R109 to R111, R116 to R118, R704: who writes the length registers and the bytes of WB, IB and RB, apart from reset:
WB_LEN the end of an encode or of a send, IB_LEN the end of a receive, RB_LEN the start and the byte steps of S_RECV; a WB
byte only an encode, an IB byte only a receive that ends with OK, and an RB byte only a byte step of S_RECV (the last in
every state of the invariant, where the count of a bus read fits IB). -/
def Obligations.LengthAndBufferWriters : Prop :=
  ∀ s t : State, step s = .next t → nextInput s ≠ .reset →
    (t.wbLen ≠ s.wbLen → t.phase = .idle ∧ t.done = true ∧
      (s.phase ∈ [Phase.tx, .settle, .busWr] ∧ t.wbLen = 0 ∨
        ∃ v, nextInput s = .hostWrite .word 0x0008 v ∧ ((∃ b, decode v = .ok (.sEncode b)) ∨ decode v = .ok .bEncode))) ∧
    (t.ibLen ≠ s.ibLen → t.phase = .idle ∧ t.done = true ∧ (s.phase = .rx ∨ s.phase = .busRd)) ∧
    (t.rbLen ≠ s.rbLen →
      (s.phase = .rx ∧ nextInput s = .rxTake ∧ t.rbLen = s.rbLen + 1) ∨
      (s.phase = .idle ∧ t.rbLen = 0 ∧
        ∃ v n, nextInput s = .hostWrite .word 0x0008 v ∧ decode v = .ok (.sRecv n))) ∧
    (∀ j, j < s.params.wbCap → t.mem.read (0x4000 + 4 * j) ≠ s.mem.read (0x4000 + 4 * j) →
      s.phase = .idle ∧ ∃ v, nextInput s = .hostWrite .word 0x0008 v ∧
        ((∃ b, decode v = .ok (.sEncode b)) ∨ decode v = .ok .bEncode)) ∧
    (∀ j, j < s.params.ibCap.val → t.mem.read (0x6000 + 4 * j) ≠ s.mem.read (0x6000 + 4 * j) →
      t.result.cls = .ok ∧ t.done = true ∧ t.phase = .idle ∧
        (s.phase = .rx ∧ nextInput s = .rxTake ∨ s.phase = .busRd ∧ ∃ d, nextInput s = .busData d)) ∧
    (BlockInv s → ∀ j, j < s.params.rbCap → t.mem.read (0x8000 + 4 * j) ≠ s.mem.read (0x8000 + 4 * j) →
      s.phase = .rx ∧ nextInput s = .rxTake)

/-- R214, R119: while a command runs, every step but reset leaves its operands alone: the latch, XPORT, SCMD, REGADDR,
PB_LEN, PRIM_IN, every byte of PB and WB, and, until the command finishes, WB_LEN. -/
def Obligations.RunningCommandKeepsOperands : Prop :=
  ∀ s t : State, s.phase ≠ .idle → nextInput s ≠ .reset → step s = .next t →
    t.latch = s.latch ∧ t.xport = s.xport ∧ t.lead = s.lead ∧ t.subc = s.subc ∧ t.regAddr = s.regAddr ∧
    t.pbLen = s.pbLen ∧ t.primIn0 = s.primIn0 ∧ t.primIn1 = s.primIn1 ∧
    (∀ i, i < s.params.pbCap.val → t.mem.read (0x2000 + 4 * i) = s.mem.read (0x2000 + 4 * i)) ∧
    (∀ i, i < s.params.wbCap → t.mem.read (0x4000 + 4 * i) = s.mem.read (0x4000 + 4 * i)) ∧
    (t.phase ≠ .idle → t.wbLen = s.wbLen)

/-! The host protocol -/

/-- R652, R654 (90 C6): the results of the save/restore wrapper. -/
def Obligations.GatedWrapperResults : Prop :=
  ∀ stop inner restart : ResultClass,
    gated false stop inner restart = { result := inner, measuring := false } ∧
    (stop ≠ .ok → (gated true stop inner restart).result = .cmdState) ∧
    (stop = .ok → inner ≠ .ok → (gated true stop inner restart).result = inner) ∧
    (stop = .ok → inner = .ok → restart ≠ .ok → (gated true stop inner restart).result = .cmdState) ∧
    (stop = .ok → inner = .ok → restart = .ok → gated true stop inner restart = { result := .ok, measuring := true })
end

