-- ==== Sys2Proof/Laws/State.lean ====
section
/-! SUPPORT. One lemma per field per named update of the state, each true by definition, so that no proof unfolds a
record update. -/

namespace Sys2Proof.Machine

/-! `accept` -/

@[simp] theorem accept_xport (s : State) : (accept s).xport = s.xport := rfl
@[simp] theorem accept_done (s : State) : (accept s).done = false := rfl
@[simp] theorem accept_rej (s : State) : (accept s).rej = s.rej := rfl
@[simp] theorem accept_rxst (s : State) : (accept s).rxst = s.rxst := rfl
@[simp] theorem accept_phase (s : State) : (accept s).phase = s.phase := rfl
@[simp] theorem accept_result (s : State) : (accept s).result = s.result := rfl
@[simp] theorem accept_lead (s : State) : (accept s).lead = s.lead := rfl
@[simp] theorem accept_subc (s : State) : (accept s).subc = s.subc := rfl
@[simp] theorem accept_regAddr (s : State) : (accept s).regAddr = s.regAddr := rfl
@[simp] theorem accept_pbLen (s : State) : (accept s).pbLen = s.pbLen := rfl
@[simp] theorem accept_wbLen (s : State) : (accept s).wbLen = s.wbLen := rfl
@[simp] theorem accept_ibLen (s : State) : (accept s).ibLen = s.ibLen := rfl
@[simp] theorem accept_rbLen (s : State) : (accept s).rbLen = s.rbLen := rfl
@[simp] theorem accept_primIn0 (s : State) : (accept s).primIn0 = s.primIn0 := rfl
@[simp] theorem accept_primIn1 (s : State) : (accept s).primIn1 = s.primIn1 := rfl
@[simp] theorem accept_primOut (s : State) : (accept s).primOut = s.primOut := rfl
@[simp] theorem accept_chk (s : State) : (accept s).chk = s.chk := rfl
@[simp] theorem accept_mem (s : State) : (accept s).mem = s.mem := rfl
@[simp] theorem accept_tmr (s : State) : (accept s).tmr = s.tmr := rfl
@[simp] theorem accept_txi (s : State) : (accept s).txi = s.txi := rfl
@[simp] theorem accept_latch (s : State) : (accept s).latch = s.latch := rfl
@[simp] theorem accept_busReq (s : State) : (accept s).busReq = s.busReq := rfl
@[simp] theorem accept_rxQueue (s : State) : (accept s).rxQueue = s.rxQueue := rfl
@[simp] theorem accept_txWire (s : State) : (accept s).txWire = s.txWire := rfl
@[simp] theorem accept_hostData (s : State) : (accept s).hostData = s.hostData := rfl
@[simp] theorem accept_inputs (s : State) : (accept s).inputs = s.inputs := rfl
@[simp] theorem accept_inputCount (s : State) : (accept s).inputCount = s.inputCount := rfl
@[simp] theorem accept_epoch (s : State) : (accept s).epoch = s.epoch := rfl
@[simp] theorem accept_params (s : State) : (accept s).params = s.params := rfl

/-! `reject` -/

@[simp] theorem reject_xport (s : State) : (reject s).xport = s.xport := rfl
@[simp] theorem reject_done (s : State) : (reject s).done = s.done := rfl
@[simp] theorem reject_rej (s : State) : (reject s).rej = true := rfl
@[simp] theorem reject_rxst (s : State) : (reject s).rxst = s.rxst := rfl
@[simp] theorem reject_phase (s : State) : (reject s).phase = s.phase := rfl
@[simp] theorem reject_result (s : State) : (reject s).result = s.result := rfl
@[simp] theorem reject_lead (s : State) : (reject s).lead = s.lead := rfl
@[simp] theorem reject_subc (s : State) : (reject s).subc = s.subc := rfl
@[simp] theorem reject_regAddr (s : State) : (reject s).regAddr = s.regAddr := rfl
@[simp] theorem reject_pbLen (s : State) : (reject s).pbLen = s.pbLen := rfl
@[simp] theorem reject_wbLen (s : State) : (reject s).wbLen = s.wbLen := rfl
@[simp] theorem reject_ibLen (s : State) : (reject s).ibLen = s.ibLen := rfl
@[simp] theorem reject_rbLen (s : State) : (reject s).rbLen = s.rbLen := rfl
@[simp] theorem reject_primIn0 (s : State) : (reject s).primIn0 = s.primIn0 := rfl
@[simp] theorem reject_primIn1 (s : State) : (reject s).primIn1 = s.primIn1 := rfl
@[simp] theorem reject_primOut (s : State) : (reject s).primOut = s.primOut := rfl
@[simp] theorem reject_chk (s : State) : (reject s).chk = s.chk := rfl
@[simp] theorem reject_mem (s : State) : (reject s).mem = s.mem := rfl
@[simp] theorem reject_tmr (s : State) : (reject s).tmr = s.tmr := rfl
@[simp] theorem reject_txi (s : State) : (reject s).txi = s.txi := rfl
@[simp] theorem reject_latch (s : State) : (reject s).latch = s.latch := rfl
@[simp] theorem reject_busReq (s : State) : (reject s).busReq = s.busReq := rfl
@[simp] theorem reject_rxQueue (s : State) : (reject s).rxQueue = s.rxQueue := rfl
@[simp] theorem reject_txWire (s : State) : (reject s).txWire = s.txWire := rfl
@[simp] theorem reject_hostData (s : State) : (reject s).hostData = s.hostData := rfl
@[simp] theorem reject_inputs (s : State) : (reject s).inputs = s.inputs := rfl
@[simp] theorem reject_inputCount (s : State) : (reject s).inputCount = s.inputCount := rfl
@[simp] theorem reject_epoch (s : State) : (reject s).epoch = s.epoch := rfl
@[simp] theorem reject_params (s : State) : (reject s).params = s.params := rfl

/-! `finishWith` -/

@[simp] theorem finishWith_xport (r : Result) (s : State) : (finishWith r s).xport = s.xport := rfl
@[simp] theorem finishWith_done (r : Result) (s : State) : (finishWith r s).done = true := rfl
@[simp] theorem finishWith_rej (r : Result) (s : State) : (finishWith r s).rej = s.rej := rfl
@[simp] theorem finishWith_rxst (r : Result) (s : State) : (finishWith r s).rxst = s.rxst := rfl
@[simp] theorem finishWith_phase (r : Result) (s : State) : (finishWith r s).phase = .idle := rfl
@[simp] theorem finishWith_result (r : Result) (s : State) : (finishWith r s).result = r := rfl
@[simp] theorem finishWith_lead (r : Result) (s : State) : (finishWith r s).lead = s.lead := rfl
@[simp] theorem finishWith_subc (r : Result) (s : State) : (finishWith r s).subc = s.subc := rfl
@[simp] theorem finishWith_regAddr (r : Result) (s : State) : (finishWith r s).regAddr = s.regAddr := rfl
@[simp] theorem finishWith_pbLen (r : Result) (s : State) : (finishWith r s).pbLen = s.pbLen := rfl
@[simp] theorem finishWith_wbLen (r : Result) (s : State) : (finishWith r s).wbLen = s.wbLen := rfl
@[simp] theorem finishWith_ibLen (r : Result) (s : State) : (finishWith r s).ibLen = s.ibLen := rfl
@[simp] theorem finishWith_rbLen (r : Result) (s : State) : (finishWith r s).rbLen = s.rbLen := rfl
@[simp] theorem finishWith_primIn0 (r : Result) (s : State) : (finishWith r s).primIn0 = s.primIn0 := rfl
@[simp] theorem finishWith_primIn1 (r : Result) (s : State) : (finishWith r s).primIn1 = s.primIn1 := rfl
@[simp] theorem finishWith_primOut (r : Result) (s : State) : (finishWith r s).primOut = s.primOut := rfl
@[simp] theorem finishWith_chk (r : Result) (s : State) : (finishWith r s).chk = s.chk := rfl
@[simp] theorem finishWith_mem (r : Result) (s : State) : (finishWith r s).mem = s.mem := rfl
@[simp] theorem finishWith_tmr (r : Result) (s : State) : (finishWith r s).tmr = s.tmr := rfl
@[simp] theorem finishWith_txi (r : Result) (s : State) : (finishWith r s).txi = s.txi := rfl
@[simp] theorem finishWith_latch (r : Result) (s : State) : (finishWith r s).latch = s.latch := rfl
@[simp] theorem finishWith_busReq (r : Result) (s : State) : (finishWith r s).busReq = s.busReq := rfl
@[simp] theorem finishWith_rxQueue (r : Result) (s : State) : (finishWith r s).rxQueue = s.rxQueue := rfl
@[simp] theorem finishWith_txWire (r : Result) (s : State) : (finishWith r s).txWire = s.txWire := rfl
@[simp] theorem finishWith_hostData (r : Result) (s : State) : (finishWith r s).hostData = s.hostData := rfl
@[simp] theorem finishWith_inputs (r : Result) (s : State) : (finishWith r s).inputs = s.inputs := rfl
@[simp] theorem finishWith_inputCount (r : Result) (s : State) : (finishWith r s).inputCount = s.inputCount := rfl
@[simp] theorem finishWith_epoch (r : Result) (s : State) : (finishWith r s).epoch = s.epoch := rfl
@[simp] theorem finishWith_params (r : Result) (s : State) : (finishWith r s).params = s.params := rfl

/-! `finish` -/

@[simp] theorem finish_xport (c : ResultClass) (s : State) : (finish c s).xport = s.xport := rfl
@[simp] theorem finish_done (c : ResultClass) (s : State) : (finish c s).done = true := rfl
@[simp] theorem finish_rej (c : ResultClass) (s : State) : (finish c s).rej = s.rej := rfl
@[simp] theorem finish_rxst (c : ResultClass) (s : State) : (finish c s).rxst = s.rxst := rfl
@[simp] theorem finish_phase (c : ResultClass) (s : State) : (finish c s).phase = .idle := rfl
@[simp] theorem finish_result (c : ResultClass) (s : State) : (finish c s).result = { cls := c, devCode := 0, devErr := false } := rfl
@[simp] theorem finish_lead (c : ResultClass) (s : State) : (finish c s).lead = s.lead := rfl
@[simp] theorem finish_subc (c : ResultClass) (s : State) : (finish c s).subc = s.subc := rfl
@[simp] theorem finish_regAddr (c : ResultClass) (s : State) : (finish c s).regAddr = s.regAddr := rfl
@[simp] theorem finish_pbLen (c : ResultClass) (s : State) : (finish c s).pbLen = s.pbLen := rfl
@[simp] theorem finish_wbLen (c : ResultClass) (s : State) : (finish c s).wbLen = s.wbLen := rfl
@[simp] theorem finish_ibLen (c : ResultClass) (s : State) : (finish c s).ibLen = s.ibLen := rfl
@[simp] theorem finish_rbLen (c : ResultClass) (s : State) : (finish c s).rbLen = s.rbLen := rfl
@[simp] theorem finish_primIn0 (c : ResultClass) (s : State) : (finish c s).primIn0 = s.primIn0 := rfl
@[simp] theorem finish_primIn1 (c : ResultClass) (s : State) : (finish c s).primIn1 = s.primIn1 := rfl
@[simp] theorem finish_primOut (c : ResultClass) (s : State) : (finish c s).primOut = s.primOut := rfl
@[simp] theorem finish_chk (c : ResultClass) (s : State) : (finish c s).chk = s.chk := rfl
@[simp] theorem finish_mem (c : ResultClass) (s : State) : (finish c s).mem = s.mem := rfl
@[simp] theorem finish_tmr (c : ResultClass) (s : State) : (finish c s).tmr = s.tmr := rfl
@[simp] theorem finish_txi (c : ResultClass) (s : State) : (finish c s).txi = s.txi := rfl
@[simp] theorem finish_latch (c : ResultClass) (s : State) : (finish c s).latch = s.latch := rfl
@[simp] theorem finish_busReq (c : ResultClass) (s : State) : (finish c s).busReq = s.busReq := rfl
@[simp] theorem finish_rxQueue (c : ResultClass) (s : State) : (finish c s).rxQueue = s.rxQueue := rfl
@[simp] theorem finish_txWire (c : ResultClass) (s : State) : (finish c s).txWire = s.txWire := rfl
@[simp] theorem finish_hostData (c : ResultClass) (s : State) : (finish c s).hostData = s.hostData := rfl
@[simp] theorem finish_inputs (c : ResultClass) (s : State) : (finish c s).inputs = s.inputs := rfl
@[simp] theorem finish_inputCount (c : ResultClass) (s : State) : (finish c s).inputCount = s.inputCount := rfl
@[simp] theorem finish_epoch (c : ResultClass) (s : State) : (finish c s).epoch = s.epoch := rfl
@[simp] theorem finish_params (c : ResultClass) (s : State) : (finish c s).params = s.params := rfl

/-! `latchFields` -/

@[simp] theorem latchFields_xport (op : BitVec 4) (l t : Bool) (n : Count) (s : State) : (latchFields op l t n s).xport = s.xport := rfl
@[simp] theorem latchFields_done (op : BitVec 4) (l t : Bool) (n : Count) (s : State) : (latchFields op l t n s).done = s.done := rfl
@[simp] theorem latchFields_rej (op : BitVec 4) (l t : Bool) (n : Count) (s : State) : (latchFields op l t n s).rej = s.rej := rfl
@[simp] theorem latchFields_rxst (op : BitVec 4) (l t : Bool) (n : Count) (s : State) : (latchFields op l t n s).rxst = s.rxst := rfl
@[simp] theorem latchFields_phase (op : BitVec 4) (l t : Bool) (n : Count) (s : State) : (latchFields op l t n s).phase = s.phase := rfl
@[simp] theorem latchFields_result (op : BitVec 4) (l t : Bool) (n : Count) (s : State) : (latchFields op l t n s).result = s.result := rfl
@[simp] theorem latchFields_lead (op : BitVec 4) (l t : Bool) (n : Count) (s : State) : (latchFields op l t n s).lead = s.lead := rfl
@[simp] theorem latchFields_subc (op : BitVec 4) (l t : Bool) (n : Count) (s : State) : (latchFields op l t n s).subc = s.subc := rfl
@[simp] theorem latchFields_regAddr (op : BitVec 4) (l t : Bool) (n : Count) (s : State) : (latchFields op l t n s).regAddr = s.regAddr := rfl
@[simp] theorem latchFields_pbLen (op : BitVec 4) (l t : Bool) (n : Count) (s : State) : (latchFields op l t n s).pbLen = s.pbLen := rfl
@[simp] theorem latchFields_wbLen (op : BitVec 4) (l t : Bool) (n : Count) (s : State) : (latchFields op l t n s).wbLen = s.wbLen := rfl
@[simp] theorem latchFields_ibLen (op : BitVec 4) (l t : Bool) (n : Count) (s : State) : (latchFields op l t n s).ibLen = s.ibLen := rfl
@[simp] theorem latchFields_rbLen (op : BitVec 4) (l t : Bool) (n : Count) (s : State) : (latchFields op l t n s).rbLen = s.rbLen := rfl
@[simp] theorem latchFields_primIn0 (op : BitVec 4) (l t : Bool) (n : Count) (s : State) : (latchFields op l t n s).primIn0 = s.primIn0 := rfl
@[simp] theorem latchFields_primIn1 (op : BitVec 4) (l t : Bool) (n : Count) (s : State) : (latchFields op l t n s).primIn1 = s.primIn1 := rfl
@[simp] theorem latchFields_primOut (op : BitVec 4) (l t : Bool) (n : Count) (s : State) : (latchFields op l t n s).primOut = s.primOut := rfl
@[simp] theorem latchFields_chk (op : BitVec 4) (l t : Bool) (n : Count) (s : State) : (latchFields op l t n s).chk = s.chk := rfl
@[simp] theorem latchFields_mem (op : BitVec 4) (l t : Bool) (n : Count) (s : State) : (latchFields op l t n s).mem = s.mem := rfl
@[simp] theorem latchFields_tmr (op : BitVec 4) (l t : Bool) (n : Count) (s : State) : (latchFields op l t n s).tmr = s.tmr := rfl
@[simp] theorem latchFields_txi (op : BitVec 4) (l t : Bool) (n : Count) (s : State) : (latchFields op l t n s).txi = s.txi := rfl
@[simp] theorem latchFields_latch (op : BitVec 4) (l t : Bool) (n : Count) (s : State) : (latchFields op l t n s).latch = { op := op, long := l, trunc := t, n := n } := rfl
@[simp] theorem latchFields_busReq (op : BitVec 4) (l t : Bool) (n : Count) (s : State) : (latchFields op l t n s).busReq = s.busReq := rfl
@[simp] theorem latchFields_rxQueue (op : BitVec 4) (l t : Bool) (n : Count) (s : State) : (latchFields op l t n s).rxQueue = s.rxQueue := rfl
@[simp] theorem latchFields_txWire (op : BitVec 4) (l t : Bool) (n : Count) (s : State) : (latchFields op l t n s).txWire = s.txWire := rfl
@[simp] theorem latchFields_hostData (op : BitVec 4) (l t : Bool) (n : Count) (s : State) : (latchFields op l t n s).hostData = s.hostData := rfl
@[simp] theorem latchFields_inputs (op : BitVec 4) (l t : Bool) (n : Count) (s : State) : (latchFields op l t n s).inputs = s.inputs := rfl
@[simp] theorem latchFields_inputCount (op : BitVec 4) (l t : Bool) (n : Count) (s : State) : (latchFields op l t n s).inputCount = s.inputCount := rfl
@[simp] theorem latchFields_epoch (op : BitVec 4) (l t : Bool) (n : Count) (s : State) : (latchFields op l t n s).epoch = s.epoch := rfl
@[simp] theorem latchFields_params (op : BitVec 4) (l t : Bool) (n : Count) (s : State) : (latchFields op l t n s).params = s.params := rfl

/-! `newEpoch` -/

@[simp] theorem newEpoch_xport (s : State) : (newEpoch s).xport = s.xport := rfl
@[simp] theorem newEpoch_done (s : State) : (newEpoch s).done = s.done := rfl
@[simp] theorem newEpoch_rej (s : State) : (newEpoch s).rej = s.rej := rfl
@[simp] theorem newEpoch_rxst (s : State) : (newEpoch s).rxst = s.rxst := rfl
@[simp] theorem newEpoch_phase (s : State) : (newEpoch s).phase = s.phase := rfl
@[simp] theorem newEpoch_result (s : State) : (newEpoch s).result = s.result := rfl
@[simp] theorem newEpoch_lead (s : State) : (newEpoch s).lead = s.lead := rfl
@[simp] theorem newEpoch_subc (s : State) : (newEpoch s).subc = s.subc := rfl
@[simp] theorem newEpoch_regAddr (s : State) : (newEpoch s).regAddr = s.regAddr := rfl
@[simp] theorem newEpoch_pbLen (s : State) : (newEpoch s).pbLen = s.pbLen := rfl
@[simp] theorem newEpoch_wbLen (s : State) : (newEpoch s).wbLen = s.wbLen := rfl
@[simp] theorem newEpoch_ibLen (s : State) : (newEpoch s).ibLen = s.ibLen := rfl
@[simp] theorem newEpoch_rbLen (s : State) : (newEpoch s).rbLen = s.rbLen := rfl
@[simp] theorem newEpoch_primIn0 (s : State) : (newEpoch s).primIn0 = s.primIn0 := rfl
@[simp] theorem newEpoch_primIn1 (s : State) : (newEpoch s).primIn1 = s.primIn1 := rfl
@[simp] theorem newEpoch_primOut (s : State) : (newEpoch s).primOut = s.primOut := rfl
@[simp] theorem newEpoch_chk (s : State) : (newEpoch s).chk = s.chk := rfl
@[simp] theorem newEpoch_mem (s : State) : (newEpoch s).mem = s.mem := rfl
@[simp] theorem newEpoch_tmr (s : State) : (newEpoch s).tmr = s.tmr := rfl
@[simp] theorem newEpoch_txi (s : State) : (newEpoch s).txi = s.txi := rfl
@[simp] theorem newEpoch_latch (s : State) : (newEpoch s).latch = s.latch := rfl
@[simp] theorem newEpoch_busReq (s : State) : (newEpoch s).busReq = s.busReq := rfl
@[simp] theorem newEpoch_rxQueue (s : State) : (newEpoch s).rxQueue = s.rxQueue := rfl
@[simp] theorem newEpoch_txWire (s : State) : (newEpoch s).txWire = s.txWire := rfl
@[simp] theorem newEpoch_hostData (s : State) : (newEpoch s).hostData = s.hostData := rfl
@[simp] theorem newEpoch_inputs (s : State) : (newEpoch s).inputs = s.inputs := rfl
@[simp] theorem newEpoch_inputCount (s : State) : (newEpoch s).inputCount = s.inputCount := rfl
@[simp] theorem newEpoch_epoch (s : State) : (newEpoch s).epoch = s.epoch + 1 := rfl
@[simp] theorem newEpoch_params (s : State) : (newEpoch s).params = s.params := rfl

/-! `storeAll` -/

@[simp] theorem storeAll_xport (b : Buf) (l : List Byte) (s : State) : (storeAll b l s).xport = s.xport := rfl
@[simp] theorem storeAll_done (b : Buf) (l : List Byte) (s : State) : (storeAll b l s).done = s.done := rfl
@[simp] theorem storeAll_rej (b : Buf) (l : List Byte) (s : State) : (storeAll b l s).rej = s.rej := rfl
@[simp] theorem storeAll_rxst (b : Buf) (l : List Byte) (s : State) : (storeAll b l s).rxst = s.rxst := rfl
@[simp] theorem storeAll_phase (b : Buf) (l : List Byte) (s : State) : (storeAll b l s).phase = s.phase := rfl
@[simp] theorem storeAll_result (b : Buf) (l : List Byte) (s : State) : (storeAll b l s).result = s.result := rfl
@[simp] theorem storeAll_lead (b : Buf) (l : List Byte) (s : State) : (storeAll b l s).lead = s.lead := rfl
@[simp] theorem storeAll_subc (b : Buf) (l : List Byte) (s : State) : (storeAll b l s).subc = s.subc := rfl
@[simp] theorem storeAll_regAddr (b : Buf) (l : List Byte) (s : State) : (storeAll b l s).regAddr = s.regAddr := rfl
@[simp] theorem storeAll_pbLen (b : Buf) (l : List Byte) (s : State) : (storeAll b l s).pbLen = s.pbLen := rfl
@[simp] theorem storeAll_wbLen (b : Buf) (l : List Byte) (s : State) : (storeAll b l s).wbLen = s.wbLen := rfl
@[simp] theorem storeAll_ibLen (b : Buf) (l : List Byte) (s : State) : (storeAll b l s).ibLen = s.ibLen := rfl
@[simp] theorem storeAll_rbLen (b : Buf) (l : List Byte) (s : State) : (storeAll b l s).rbLen = s.rbLen := rfl
@[simp] theorem storeAll_primIn0 (b : Buf) (l : List Byte) (s : State) : (storeAll b l s).primIn0 = s.primIn0 := rfl
@[simp] theorem storeAll_primIn1 (b : Buf) (l : List Byte) (s : State) : (storeAll b l s).primIn1 = s.primIn1 := rfl
@[simp] theorem storeAll_primOut (b : Buf) (l : List Byte) (s : State) : (storeAll b l s).primOut = s.primOut := rfl
@[simp] theorem storeAll_chk (b : Buf) (l : List Byte) (s : State) : (storeAll b l s).chk = s.chk := rfl
@[simp] theorem storeAll_mem (b : Buf) (l : List Byte) (s : State) : (storeAll b l s).mem = s.mem.writeFrom b 0 l := rfl
@[simp] theorem storeAll_tmr (b : Buf) (l : List Byte) (s : State) : (storeAll b l s).tmr = s.tmr := rfl
@[simp] theorem storeAll_txi (b : Buf) (l : List Byte) (s : State) : (storeAll b l s).txi = s.txi := rfl
@[simp] theorem storeAll_latch (b : Buf) (l : List Byte) (s : State) : (storeAll b l s).latch = s.latch := rfl
@[simp] theorem storeAll_busReq (b : Buf) (l : List Byte) (s : State) : (storeAll b l s).busReq = s.busReq := rfl
@[simp] theorem storeAll_rxQueue (b : Buf) (l : List Byte) (s : State) : (storeAll b l s).rxQueue = s.rxQueue := rfl
@[simp] theorem storeAll_txWire (b : Buf) (l : List Byte) (s : State) : (storeAll b l s).txWire = s.txWire := rfl
@[simp] theorem storeAll_hostData (b : Buf) (l : List Byte) (s : State) : (storeAll b l s).hostData = s.hostData := rfl
@[simp] theorem storeAll_inputs (b : Buf) (l : List Byte) (s : State) : (storeAll b l s).inputs = s.inputs := rfl
@[simp] theorem storeAll_inputCount (b : Buf) (l : List Byte) (s : State) : (storeAll b l s).inputCount = s.inputCount := rfl
@[simp] theorem storeAll_epoch (b : Buf) (l : List Byte) (s : State) : (storeAll b l s).epoch = s.epoch := rfl
@[simp] theorem storeAll_params (b : Buf) (l : List Byte) (s : State) : (storeAll b l s).params = s.params := rfl

/-! `takeInput` changes only the placed inputs and the count of drawn ones. -/

@[simp] theorem takeInput_xport (s : State) : (takeInput s).xport = s.xport := by
  unfold takeInput; split <;> rfl
@[simp] theorem takeInput_done (s : State) : (takeInput s).done = s.done := by
  unfold takeInput; split <;> rfl
@[simp] theorem takeInput_rej (s : State) : (takeInput s).rej = s.rej := by
  unfold takeInput; split <;> rfl
@[simp] theorem takeInput_rxst (s : State) : (takeInput s).rxst = s.rxst := by
  unfold takeInput; split <;> rfl
@[simp] theorem takeInput_phase (s : State) : (takeInput s).phase = s.phase := by
  unfold takeInput; split <;> rfl
@[simp] theorem takeInput_result (s : State) : (takeInput s).result = s.result := by
  unfold takeInput; split <;> rfl
@[simp] theorem takeInput_lead (s : State) : (takeInput s).lead = s.lead := by
  unfold takeInput; split <;> rfl
@[simp] theorem takeInput_subc (s : State) : (takeInput s).subc = s.subc := by
  unfold takeInput; split <;> rfl
@[simp] theorem takeInput_regAddr (s : State) : (takeInput s).regAddr = s.regAddr := by
  unfold takeInput; split <;> rfl
@[simp] theorem takeInput_pbLen (s : State) : (takeInput s).pbLen = s.pbLen := by
  unfold takeInput; split <;> rfl
@[simp] theorem takeInput_wbLen (s : State) : (takeInput s).wbLen = s.wbLen := by
  unfold takeInput; split <;> rfl
@[simp] theorem takeInput_ibLen (s : State) : (takeInput s).ibLen = s.ibLen := by
  unfold takeInput; split <;> rfl
@[simp] theorem takeInput_rbLen (s : State) : (takeInput s).rbLen = s.rbLen := by
  unfold takeInput; split <;> rfl
@[simp] theorem takeInput_primIn0 (s : State) : (takeInput s).primIn0 = s.primIn0 := by
  unfold takeInput; split <;> rfl
@[simp] theorem takeInput_primIn1 (s : State) : (takeInput s).primIn1 = s.primIn1 := by
  unfold takeInput; split <;> rfl
@[simp] theorem takeInput_primOut (s : State) : (takeInput s).primOut = s.primOut := by
  unfold takeInput; split <;> rfl
@[simp] theorem takeInput_chk (s : State) : (takeInput s).chk = s.chk := by
  unfold takeInput; split <;> rfl
@[simp] theorem takeInput_mem (s : State) : (takeInput s).mem = s.mem := by
  unfold takeInput; split <;> rfl
@[simp] theorem takeInput_tmr (s : State) : (takeInput s).tmr = s.tmr := by
  unfold takeInput; split <;> rfl
@[simp] theorem takeInput_txi (s : State) : (takeInput s).txi = s.txi := by
  unfold takeInput; split <;> rfl
@[simp] theorem takeInput_latch (s : State) : (takeInput s).latch = s.latch := by
  unfold takeInput; split <;> rfl
@[simp] theorem takeInput_busReq (s : State) : (takeInput s).busReq = s.busReq := by
  unfold takeInput; split <;> rfl
@[simp] theorem takeInput_rxQueue (s : State) : (takeInput s).rxQueue = s.rxQueue := by
  unfold takeInput; split <;> rfl
@[simp] theorem takeInput_txWire (s : State) : (takeInput s).txWire = s.txWire := by
  unfold takeInput; split <;> rfl
@[simp] theorem takeInput_hostData (s : State) : (takeInput s).hostData = s.hostData := by
  unfold takeInput; split <;> rfl
@[simp] theorem takeInput_epoch (s : State) : (takeInput s).epoch = s.epoch := by
  unfold takeInput; split <;> rfl
@[simp] theorem takeInput_params (s : State) : (takeInput s).params = s.params := by
  unfold takeInput; split <;> rfl

/-- With a placed input, that input is taken and the rest stay. -/
theorem takeInput_cons {s : State} {i : Input} {rest : List Input} (h : s.inputs = i :: rest) :
    takeInput s = { s with inputs := rest } := by
  unfold takeInput; rw [h]

/-- With a placed input, it is the step's input. -/
theorem nextInput_cons {s : State} {i : Input} {rest : List Input} (h : s.inputs = i :: rest) : nextInput s = i := by
  unfold nextInput; rw [h]

/-- BUSY is PHASE ≠ IDLE (10 R103). -/
theorem busy_eq_false {s : State} : s.busy = false ↔ s.phase = .idle := by
  simp [State.busy]

/-- BUSY is PHASE ≠ IDLE (10 R103). -/
theorem busy_eq_true {s : State} : s.busy = true ↔ s.phase ≠ .idle := by
  simp [State.busy]

end Sys2Proof.Machine
end

