-- ==== Sys2Proof/Laws/Memory.lean ====
section
/-! SUPPORT. The buffer memory: read after write, the canonical form, and what a run of stores does. -/

namespace Sys2Proof.Machine

/-! Offsets -/

/-- Two bytes of one buffer at the same offset are the same byte. -/
theorem Buf.addr_inj {b : Buf} {i j : Nat} : b.addr i = b.addr j ↔ i = j := by
  unfold Buf.addr; omega

/-- A buffer's capacity keeps its bytes inside its window (20 R201). -/
theorem Buf.cap_le (p : Params) (b : Buf) : b.cap p ≤ 2048 := by
  have h1 := p.pbCap.isLt
  have h2 := p.ibCap.isLt
  have h3 := p.rbExtra.isLt
  cases b <;> simp only [Buf.cap, Params.wbCap, Params.rbCap] <;> omega

/-- Bytes of different buffers, inside the windows, have different offsets (20 R201). -/
theorem Buf.addr_ne {b c : Buf} {i j : Nat} (h : b ≠ c) (hi : i < 2048) (hj : j < 2048) : b.addr i ≠ c.addr j := by
  cases b <;> cases c <;> first | exact absurd rfl h | (simp only [Buf.addr, Buf.base]; omega)

/-! Read after write -/

/-- Reading the offset just written gives the value written. -/
theorem Memory.read_write_same (m : Memory) (x : Nat) (v : Byte) : (m.write x v).read x = some v := by
  induction m with
  | nil => simp [Memory.write, Memory.read]
  | cons c m ih =>
    obtain ⟨a, w⟩ := c
    simp only [Memory.write]
    split
    · simp [Memory.read]
    · split
      · simp [Memory.read]
      · simp only [Memory.read]
        rw [if_neg (by omega)]
        exact ih

/-- A write leaves every other offset alone. -/
theorem Memory.read_write_other (m : Memory) {x y : Nat} (v : Byte) (h : y ≠ x) :
    (m.write x v).read y = m.read y := by
  induction m with
  | nil => simp [Memory.write, Memory.read]; omega
  | cons c m ih =>
    obtain ⟨a, w⟩ := c
    simp only [Memory.write]
    split
    · simp only [Memory.read]
      rw [if_neg (by omega)]
    · split
      · rename_i h2
        simp only [Memory.read]
        rw [if_neg (by omega), if_neg (by omega)]
      · simp only [Memory.read]
        rw [ih]

/-- The offsets held after a write are those held before and the one written. -/
theorem Memory.mem_write {m : Memory} {x : Nat} {v : Byte} {c : Host.Cell} (h : c ∈ m.write x v) :
    c ∈ m ∨ c = (x, v) := by
  induction m with
  | nil => simp [Memory.write] at h; exact .inr h
  | cons d m ih =>
    obtain ⟨a, w⟩ := d
    simp only [Memory.write] at h
    split at h
    · simp at h ⊢; tauto
    · split at h
      · simp at h ⊢; tauto
      · simp only [List.mem_cons] at h ⊢
        rcases h with h | h
        · exact .inl (.inl h)
        · rcases ih h with h | h
          · exact .inl (.inr h)
          · exact .inr h

/-- A write keeps the canonical form. -/
theorem Memory.write_wf {m : Memory} (x : Nat) (v : Byte) (h : m.wf) : (m.write x v).wf := by
  induction m with
  | nil => simp [Memory.write, Memory.wf]
  | cons c m ih =>
    obtain ⟨a, w⟩ := c
    simp only [Memory.wf, List.pairwise_cons] at h
    obtain ⟨h1, h2⟩ := h
    simp only [Memory.write]
    split
    · rename_i hx
      simp only [Memory.wf, List.pairwise_cons, List.mem_cons]
      refine ⟨?_, h1, h2⟩
      rintro d (rfl | hd)
      · exact hx
      · exact hx.trans (h1 d hd)
    · split
      · rename_i hx
        subst hx
        simp only [Memory.wf, List.pairwise_cons]
        exact ⟨h1, h2⟩
      · simp only [Memory.wf, List.pairwise_cons]
        refine ⟨?_, ih h2⟩
        intro d hd
        rcases Memory.mem_write hd with hd | rfl
        · exact h1 d hd
        · simp only; omega

/-! Runs of stores -/

/-- A run of stores keeps the canonical form. -/
theorem Memory.writeFrom_wf {m : Memory} (b : Buf) (i : Nat) (l : List Byte) (h : m.wf) :
    (m.writeFrom b i l).wf := by
  induction l generalizing m i with
  | nil => exact h
  | cons v l ih => exact ih (i + 1) (Memory.write_wf _ _ h)

/-- The offsets held after a run of stores. -/
theorem Memory.mem_writeFrom {m : Memory} {b : Buf} {i : Nat} {l : List Byte} {c : Host.Cell}
    (h : c ∈ m.writeFrom b i l) : c ∈ m ∨ ∃ k, k < l.length ∧ c.1 = b.addr (i + k) := by
  induction l generalizing m i with
  | nil => exact .inl h
  | cons v l ih =>
    rcases ih h with h | ⟨k, hk, hc⟩
    · rcases Memory.mem_write h with h | rfl
      · exact .inl h
      · exact .inr ⟨0, by simp, rfl⟩
    · exact .inr ⟨k + 1, by simp; omega, by rw [hc, Nat.add_right_comm, Nat.add_assoc]⟩

/-- A run of stores leaves every offset outside its bytes alone. -/
theorem Memory.read_writeFrom_other {m : Memory} {b : Buf} {i : Nat} {l : List Byte} {y : Nat}
    (h : ∀ k, k < l.length → y ≠ b.addr (i + k)) : (m.writeFrom b i l).read y = m.read y := by
  induction l generalizing m i with
  | nil => rfl
  | cons v l ih =>
    have h0 : y ≠ b.addr i := h 0 (by simp)
    rw [Memory.writeFrom, ih, Memory.read_write_other _ _ h0]
    intro k hk
    have := h (k + 1) (by simp; omega)
    rwa [Nat.add_right_comm, Nat.add_assoc] at *

/-- A run of stores puts byte `k` of its list at index `i + k`. -/
theorem Memory.read_writeFrom {m : Memory} {b : Buf} {i : Nat} {l : List Byte} {k : Nat} (h : k < l.length) :
    (m.writeFrom b i l).read (b.addr (i + k)) = some l[k] := by
  induction l generalizing m i k with
  | nil => simp at h
  | cons v l ih =>
    rw [Memory.writeFrom]
    cases k with
    | zero =>
      rw [Memory.read_writeFrom_other, Nat.add_zero, Memory.read_write_same]
      · rfl
      · intro k _ hk
        rw [Buf.addr_inj] at hk
        omega
    | succ k =>
      have := ih (m := m.write (b.addr i) v) (i := i + 1) (k := k) (by simpa using h)
      rw [Nat.add_right_comm, Nat.add_assoc] at this
      exact this

/-- Writing never takes a value away. -/
theorem Memory.isSome_write {m : Memory} {x y : Nat} {v : Byte} (h : (m.read y).isSome) :
    ((m.write x v).read y).isSome := by
  by_cases hy : y = x
  · subst hy; rw [Memory.read_write_same]; rfl
  · rwa [Memory.read_write_other _ _ hy]

/-- A run of stores never takes a value away. -/
theorem Memory.isSome_writeFrom {m : Memory} {b : Buf} {i : Nat} {l : List Byte} {y : Nat} (h : (m.read y).isSome) :
    ((m.writeFrom b i l).read y).isSome := by
  induction l generalizing m i with
  | nil => exact h
  | cons v l ih => exact ih (Memory.isSome_write h)

/-! Runs of reads -/

@[simp] theorem bytesFrom_length (s : State) (b : Buf) (i n : Nat) : (bytesFrom s b i n).length = n := by
  simp [bytesFrom]

/-- A written byte reads the same whatever the epoch. -/
theorem byteOf_written {s t : State} {b : Buf} {i : Nat} (hm : t.mem = s.mem) (h : written s b i = true) :
    byteOf t b i = byteOf s b i := by
  simp only [written, Option.isSome_iff_exists] at h
  obtain ⟨v, h⟩ := h
  simp [byteOf, hm, h]

/-- A run of written bytes reads the same whatever the epoch. -/
theorem bytesFrom_written {s t : State} {b : Buf} {i n : Nat} (hm : t.mem = s.mem)
    (h : ∀ k, k < n → written s b (i + k) = true) : bytesFrom t b i n = bytesFrom s b i n := by
  apply List.map_congr_left
  intro k hk
  exact byteOf_written hm (h k (List.mem_range.mp hk))

/-- The bytes just stored at the start of a buffer are the bytes read there. -/
theorem bytesFrom_storeAll (s : State) (b : Buf) (l : List Byte) :
    bytesFrom (storeAll b l s) b 0 l.length = l := by
  apply List.ext_getElem
  · simp
  · intro k h1 h2
    have := Memory.read_writeFrom (m := s.mem) (b := b) (i := 0) (l := l) (k := k) h2
    rw [Nat.zero_add] at this
    simp [bytesFrom, byteOf, this]

end Sys2Proof.Machine
end

