-- ==== Sys2Proof/Laws/HostAccess.lean ====
section
/-! SUPPORT. The register map: what stands at each offset, and what host accesses answer. -/

namespace Sys2Proof.Machine

/-! The map -/

@[simp] theorem target_ctrl (p : Params) : target p 0x0000#16 = .reg .ctrl := rfl
@[simp] theorem target_status (p : Params) : target p 0x0004#16 = .reg .status := rfl
@[simp] theorem target_cmd (p : Params) : target p 0x0008#16 = .reg .cmd := rfl
@[simp] theorem target_result (p : Params) : target p 0x000C#16 = .reg .result := rfl
@[simp] theorem target_scmd (p : Params) : target p 0x0010#16 = .reg .scmd := rfl
@[simp] theorem target_regAddr (p : Params) : target p 0x0014#16 = .reg .regAddr := rfl
@[simp] theorem target_pbLen (p : Params) : target p 0x0018#16 = .reg .pbLen := rfl
@[simp] theorem target_wbLen (p : Params) : target p 0x001C#16 = .reg .wbLen := rfl
@[simp] theorem target_ibLen (p : Params) : target p 0x0020#16 = .reg .ibLen := rfl
@[simp] theorem target_rbLen (p : Params) : target p 0x0024#16 = .reg .rbLen := rfl
@[simp] theorem target_primIn (p : Params) : target p 0x0028#16 = .reg .primIn := rfl
@[simp] theorem target_primOut (p : Params) : target p 0x002C#16 = .reg .primOut := rfl
@[simp] theorem target_chk (p : Params) : target p 0x0030#16 = .reg .chk := rfl

/-- Above the last register no offset is a register's. -/
theorem find_none {off : Offset} (h : 0x0034 ≤ off.toNat) :
    allRegs.find? (fun r => r.offset = off.toNat) = none := by
  rw [List.find?_eq_none]
  intro r _ hr
  have hr := of_decide_eq_true hr
  cases r <;> simp only [Reg.offset] at hr <;> omega

/-- Byte `i` of a buffer stands at its offset (20 R201). -/
theorem target_byte {p : Params} {b : Buf} {i : Nat} {off : Offset} (hi : i < b.cap p) (h : off.toNat = b.addr i) :
    target p off = .byte b i := by
  have hc := b.cap_le p
  have h34 : 0x0034 ≤ off.toNat := by rw [h]; cases b <;> simp only [Buf.addr, Buf.base] <;> omega
  have hw : windowTarget p b off.toNat = .byte b i := by
    have hd : (off.toNat - b.base) / 4 = i := by rw [h]; unfold Buf.addr; omega
    unfold windowTarget
    rw [hd, if_pos hi]
  unfold target
  rw [find_none h34]
  cases b <;> simp only [Buf.addr, Buf.base] at h <;> simp only [h] at hw ⊢ <;>
    (repeat' (first | rw [if_neg (by omega)] | rw [if_pos (by omega)])) <;> exact hw

/-- A window index at or above the capacity is unmapped (20 R202). -/
theorem target_beyond {p : Params} {b : Buf} {i : Nat} {off : Offset} (hi : b.cap p ≤ i) (h2 : i < 2048)
    (h : off.toNat = b.addr i) : target p off = .unmapped := by
  have h34 : 0x0034 ≤ off.toNat := by rw [h]; cases b <;> simp only [Buf.addr, Buf.base] <;> omega
  have hw : windowTarget p b off.toNat = .unmapped := by
    have hd : (off.toNat - b.base) / 4 = i := by rw [h]; unfold Buf.addr; omega
    unfold windowTarget
    rw [hd, if_neg (by omega)]
  unfold target
  rw [find_none h34]
  cases b <;> simp only [Buf.addr, Buf.base] at h <;> simp only [h] at hw ⊢ <;>
    (repeat' (first | rw [if_neg (by omega)] | rw [if_pos (by omega)])) <;> exact hw

/-- The offsets between the registers and the windows, and above the windows, are unmapped (20 R201). -/
theorem target_hole {p : Params} {off : Offset} (h : 0x0034 ≤ off.toNat)
    (h2 : off.toNat < 0x2000 ∨ 0xA000 ≤ off.toNat) : target p off = .unmapped := by
  unfold target
  rw [find_none h]
  simp only
  rcases h2 with h2 | h2
  · rw [if_pos h2]
  · rw [if_neg (by omega), if_neg (by omega), if_neg (by omega), if_neg (by omega), if_neg (by omega)]

/-- What the map answers: a register at its offset, or a byte inside a buffer's capacity. -/
theorem target_inv {p : Params} {off : Offset} (h4 : off.toNat % 4 = 0) :
    (∃ r, target p off = .reg r ∧ off.toNat = r.offset) ∨
    (∃ b i, target p off = .byte b i ∧ i < b.cap p ∧ off.toNat = b.addr i) ∨ target p off = .unmapped := by
  unfold target
  split
  · rename_i r hr
    have := List.find?_some hr
    simp only [decide_eq_true_eq] at this
    exact .inl ⟨r, rfl, this.symm⟩
  · have hwin : ∀ b : Buf, b.base ≤ off.toNat → b.base % 4 = 0 →
        (∃ c i, windowTarget p b off.toNat = .byte c i ∧ i < c.cap p ∧ off.toNat = c.addr i) ∨
          windowTarget p b off.toNat = .unmapped := by
      intro b hb hb4
      unfold windowTarget
      split
      · rename_i hc
        exact .inl ⟨b, _, rfl, hc, by unfold Buf.addr; omega⟩
      · exact .inr rfl
    split
    · exact .inr (.inr rfl)
    · split
      · exact .inr (hwin .pb (by simp only [Buf.base]; omega) rfl)
      · split
        · exact .inr (hwin .wb (by simp only [Buf.base]; omega) rfl)
        · split
          · exact .inr (hwin .ib (by simp only [Buf.base]; omega) rfl)
          · split
            · exact .inr (hwin .rb (by simp only [Buf.base]; omega) rfl)
            · exact .inr (.inr rfl)

/-! Accesses -/

/-- A supported host read. -/
theorem react_read {s : State} {off : Offset} (h : off.toNat % 4 = 0) :
    react (.hostRead .word off) s = .next { s with hostData := readValue s off } := by
  simp [react, hostRead, supported, h]

/-- A supported host write. -/
theorem react_write {s : State} {off : Offset} {v : Word} (h : off.toNat % 4 = 0) :
    react (.hostWrite .word off v) s = writeTarget (target s.params off) v (newEpoch s) := by
  simp [react, hostWrite, supported, h]

/-- A supported host write to CMD is the acceptance of R320. -/
theorem react_cmd (s : State) (v : Word) : react (.hostWrite .word 0x0008 v) s = writeCmd v (newEpoch s) := rfl

/-- A step with a placed input answers it. -/
theorem step_cons {s : State} {i : Input} {rest : List Input} (h : s.inputs = i :: rest) :
    step s = react i { s with inputs := rest } := by
  unfold step
  rw [nextInput_cons h, takeInput_cons h]

/-- The guard of a host write: rejected while BUSY, else its effect (10 R119). -/
theorem guarded_idle {f : State → State} {s : State} (h : s.phase = .idle) : guarded f s = f s := by
  simp [guarded, State.busy, h]

/-- The guard of a host write: rejected while BUSY, else its effect (10 R119). -/
theorem guarded_busy {f : State → State} {s : State} (h : s.phase ≠ .idle) : guarded f s = reject s := by
  simp [guarded, State.busy, h]

end Sys2Proof.Machine
end

