-- ==== Sys2Proof/Laws/Frames.lean ====
section
/-! SUPPORT. Frames: for each shared operation, meaning and engine step, ONE equation that says every field it leaves
unchanged, so that no later proof unfolds it to learn that; and the inversion of a host write. -/

namespace Sys2Proof.Machine

/-! Shared operations -/

/-- Entering SETTLE: TMR is 0 and PHASE SETTLE, or, for T = 0, the send is finished. -/
theorem enterSettle_frame (s : State) : enterSettle s = { s with
    tmr := 0, phase := (enterSettle s).phase, wbLen := (enterSettle s).wbLen, result := (enterSettle s).result,
    done := (enterSettle s).done } := by
  unfold enterSettle
  split <;> rfl

/-- The validation writes IB, IB_LEN, RESULT, PHASE and DONE only. -/
theorem validate_frame (s : State) : validate s = { s with
    mem := (validate s).mem, ibLen := (validate s).ibLen, result := (validate s).result, phase := .idle,
    done := true } := by
  unfold validate
  dsimp only
  repeat' split
  all_goals rfl

/-- Storing a body byte either fails or stores it. -/
theorem storeBody_frame (x : Byte) (s : State) : storeBody x s = { s with
    mem := (storeBody x s).mem, rbLen := (storeBody x s).rbLen, rxst := (storeBody x s).rxst,
    ibLen := (storeBody x s).ibLen, result := (storeBody x s).result, phase := (storeBody x s).phase,
    done := (storeBody x s).done } := by
  unfold storeBody
  split <;> rfl

/-- A taken byte changes RXST, RB, RB_LEN and, at the end of the receive, IB, IB_LEN, RESULT, PHASE and DONE. -/
theorem rxByte_frame (b : Byte) (s : State) : rxByte b s = { s with
    mem := (rxByte b s).mem, rbLen := (rxByte b s).rbLen, rxst := (rxByte b s).rxst,
    ibLen := (rxByte b s).ibLen, result := (rxByte b s).result, phase := (rxByte b s).phase,
    done := (rxByte b s).done } := by
  unfold rxByte
  split
  · split <;> rfl
  · split
    · rw [validate_frame]
    · split
      · rfl
      · rw [storeBody_frame]
  · split
    · rw [storeBody_frame]
    · rfl
  · rfl
  · rfl

/-! Engine steps -/

/-- The TX step writes the transport's record, TXI, TMR and, at the end of the send, WB_LEN, RESULT, PHASE, DONE. -/
theorem txAcceptStep_frame (s : State) : txAcceptStep s = { s with
    epoch := (txAcceptStep s).epoch, txWire := (txAcceptStep s).txWire, txi := (txAcceptStep s).txi,
    tmr := (txAcceptStep s).tmr, phase := (txAcceptStep s).phase, wbLen := (txAcceptStep s).wbLen,
    result := (txAcceptStep s).result, done := (txAcceptStep s).done } := by
  unfold txAcceptStep
  split
  · dsimp only
    split
    · rw [enterSettle_frame]; rfl
    · rfl
  · rfl

/-- The byte step writes the queue and what `rxByte` writes. -/
theorem rxTakeStep_frame (s : State) : rxTakeStep s = { s with
    epoch := (rxTakeStep s).epoch, rxQueue := (rxTakeStep s).rxQueue, mem := (rxTakeStep s).mem,
    rbLen := (rxTakeStep s).rbLen, rxst := (rxTakeStep s).rxst, ibLen := (rxTakeStep s).ibLen,
    result := (rxTakeStep s).result, phase := (rxTakeStep s).phase, done := (rxTakeStep s).done } := by
  unfold rxTakeStep
  split
  · rfl
  · split
    · rw [rxByte_frame]; rfl
    · rfl

/-- A bus completion writes the bus request, TMR, WB_LEN, RESULT, PHASE and DONE. -/
theorem busDoneStep_frame (b : Byte) (s : State) : busDoneStep b s = { s with
    epoch := (busDoneStep b s).epoch, busReq := (busDoneStep b s).busReq, tmr := (busDoneStep b s).tmr,
    wbLen := (busDoneStep b s).wbLen, result := (busDoneStep b s).result, phase := (busDoneStep b s).phase,
    done := (busDoneStep b s).done } := by
  unfold busDoneStep
  split
  · split
    · rfl
    · rw [enterSettle_frame]; rfl
  · rfl

/-- A bus delivery writes the bus request, IB, IB_LEN, RESULT, PHASE and DONE. -/
theorem busDataStep_frame (d : List Byte) (s : State) : busDataStep d s = { s with
    epoch := (busDataStep d s).epoch, busReq := (busDataStep d s).busReq, mem := (busDataStep d s).mem,
    ibLen := (busDataStep d s).ibLen, result := (busDataStep d s).result, phase := (busDataStep d s).phase,
    done := (busDataStep d s).done } := by
  unfold busDataStep
  split
  · dsimp only
    split <;> rfl
  · rfl

/-- A Tick writes TMR and, where it ends a command, RXST, WB_LEN, IB_LEN, RESULT, PHASE and DONE. -/
theorem tickStep_frame (s : State) : tickStep s = { s with
    epoch := (tickStep s).epoch, tmr := (tickStep s).tmr, rxst := (tickStep s).rxst, wbLen := (tickStep s).wbLen,
    ibLen := (tickStep s).ibLen, result := (tickStep s).result, phase := (tickStep s).phase,
    done := (tickStep s).done } := by
  unfold tickStep
  split
  · unfold settleTick; split <;> rfl
  · unfold rxTick; split <;> rfl
  · rfl
  · rfl
  · rfl
  · rfl

/-! Commands -/

/-- A command writes none of the operand registers, the payload length, XPORT, REJ, the receive queue, the transport's
record, IB_LEN, TMR other than to 0, or anything outside the block. -/
theorem exec_frame {i : Instr} {s t : State} (h : exec i s = .next t) : t = { s with
    done := t.done, rxst := t.rxst, phase := t.phase, result := t.result, wbLen := t.wbLen, rbLen := t.rbLen,
    primOut := t.primOut, chk := t.chk, mem := t.mem, tmr := t.tmr, txi := t.txi, latch := t.latch,
    busReq := t.busReq } := by
  cases i <;> simp only [exec, execSEncode, execSSend, execSRecv, execBEncode, execBSend, execBRecv, execStuff,
    execUnstuff, execCksum, execCrc8] at h
  all_goals (repeat' split at h)
  all_goals first
    | (cases h; done)
    | (injection h with h; subst h; rfl)

/-! Host writes -/

/-- What a host write can do: nothing, a rejection of a write that R119 lists, a command, or one idle register or PB
write. -/
theorem hostWrite_cases {size : AccessSize} {off : Offset} {v : Word} {s t : State}
    (h : react (.hostWrite size off v) s = .next t) :
    size = .word ∧ off.toNat % 4 = 0 ∧
    (t = newEpoch s ∨
      (s.phase ≠ .idle ∧ t = reject (newEpoch s) ∧
        (off ∈ [0x0000#16, 0x0008#16, 0x0010#16, 0x0014#16, 0x0018#16, 0x0028#16] ∨
          ∃ j, j < s.params.pbCap.val ∧ off.toNat = Buf.pb.addr j)) ∨
      (off = 0x0004 ∧ t = clearRej v (newEpoch s)) ∨
      (off = 0x0008 ∧ s.phase = .idle ∧ (∃ e, decode v = .error e) ∧ t = finish .param (accept (newEpoch s))) ∨
      (off = 0x0008 ∧ s.phase = .idle ∧ ∃ i, decode v = .ok i ∧ exec i (newEpoch s) = .next t) ∨
      (s.phase = .idle ∧ off = 0x0000 ∧ t = writeCtrl v (newEpoch s)) ∨
      (s.phase = .idle ∧ off = 0x0010 ∧
        t = { newEpoch s with lead := v.extractLsb' 0 8, subc := v.extractLsb' 8 8 }) ∨
      (s.phase = .idle ∧ off = 0x0014 ∧ t = { newEpoch s with regAddr := v.extractLsb' 0 16 }) ∨
      (s.phase = .idle ∧ off = 0x0018 ∧ t = { newEpoch s with pbLen := v.extractLsb' 0 16 }) ∨
      (s.phase = .idle ∧ off = 0x0028 ∧
        t = { newEpoch s with primIn0 := v.extractLsb' 0 8, primIn1 := v.extractLsb' 8 8 }) ∨
      (s.phase = .idle ∧ ∃ j, j < s.params.pbCap.val ∧ off.toNat = Buf.pb.addr j ∧
        t = { newEpoch s with mem := s.mem.write (Buf.pb.addr j) (v.extractLsb' 0 8) })) := by
  simp only [react, hostWrite] at h
  split at h
  swap
  · cases h
  rename_i hs
  simp only [supported, Bool.and_eq_true, decide_eq_true_eq] at hs
  obtain ⟨rfl, h4⟩ := hs
  refine ⟨rfl, h4, ?_⟩
  have hg : ∀ (f : State → State) (u : State), u = guarded f (newEpoch s) →
      (s.phase ≠ .idle ∧ u = reject (newEpoch s)) ∨ (s.phase = .idle ∧ u = f (newEpoch s)) := by
    intro f u hu
    by_cases hp : s.phase = .idle
    · exact .inr ⟨hp, by rw [hu, guarded_idle (by exact hp)]⟩
    · exact .inl ⟨hp, by rw [hu, guarded_busy (by exact hp)]⟩
  rcases target_inv (p := s.params) h4 with ⟨r, hr, ho⟩ | ⟨b, j, hr, hj, ho⟩ | hr
  · have ho' : off = BitVec.ofNat 16 r.offset := by
      apply BitVec.eq_of_toNat_eq
      rw [ho]
      cases r <;> rfl
    rw [hr] at h
    cases r
    case cmd =>
      by_cases hp : s.phase = .idle
      · simp only [writeTarget, writeCmd, busy_eq_false.mpr (show (newEpoch s).phase = .idle from hp),
          Bool.false_eq_true, if_false] at h
        split at h
        · rename_i e he
          injection h with h
          exact .inr (.inr (.inr (.inl ⟨ho', hp, ⟨e, he⟩, h.symm⟩)))
        · rename_i i hi
          exact .inr (.inr (.inr (.inr (.inl ⟨ho', hp, i, hi, h⟩))))
      · simp only [writeTarget, writeCmd, busy_eq_true.mpr (show (newEpoch s).phase ≠ .idle from hp), if_true] at h
        injection h with h
        exact .inr (.inl ⟨hp, h.symm, .inl (by rw [ho']; decide)⟩)
    all_goals (simp only [writeTarget, writeReg] at h; injection h with h)
    case status => exact .inr (.inr (.inl ⟨ho', h.symm⟩))
    case ctrl =>
      rcases hg _ _ h.symm with h | h
      · exact .inr (.inl ⟨h.1, h.2, .inl (by rw [ho']; decide)⟩)
      · exact .inr (.inr (.inr (.inr (.inr (.inl ⟨h.1, ho', h.2⟩)))))
    case scmd =>
      rcases hg _ _ h.symm with h | h
      · exact .inr (.inl ⟨h.1, h.2, .inl (by rw [ho']; decide)⟩)
      · exact .inr (.inr (.inr (.inr (.inr (.inr (.inl ⟨h.1, ho', h.2⟩))))))
    case regAddr =>
      rcases hg _ _ h.symm with h | h
      · exact .inr (.inl ⟨h.1, h.2, .inl (by rw [ho']; decide)⟩)
      · exact .inr (.inr (.inr (.inr (.inr (.inr (.inr (.inl ⟨h.1, ho', h.2⟩)))))))
    case pbLen =>
      rcases hg _ _ h.symm with h | h
      · exact .inr (.inl ⟨h.1, h.2, .inl (by rw [ho']; decide)⟩)
      · exact .inr (.inr (.inr (.inr (.inr (.inr (.inr (.inr (.inl ⟨h.1, ho', h.2⟩))))))))
    case primIn =>
      rcases hg _ _ h.symm with h | h
      · exact .inr (.inl ⟨h.1, h.2, .inl (by rw [ho']; decide)⟩)
      · exact .inr (.inr (.inr (.inr (.inr (.inr (.inr (.inr (.inr (.inl ⟨h.1, ho', h.2⟩)))))))))
    all_goals exact .inl h.symm
  · rw [hr] at h
    cases b <;> simp only [writeTarget, writeByte] at h <;> injection h with h
    case pb =>
      rcases hg _ _ h.symm with h | h
      · exact .inr (.inl ⟨h.1, h.2, .inr ⟨j, hj, ho⟩⟩)
      · exact .inr (.inr (.inr (.inr (.inr (.inr (.inr (.inr (.inr (.inr ⟨h.1, j, hj, ho, h.2⟩)))))))))
    all_goals exact .inl h.symm
  · rw [hr] at h
    simp only [writeTarget] at h
    injection h with h
    exact .inl h.symm

/-- A host read returns a value and changes nothing else. -/
theorem hostRead_cases {size : AccessSize} {off : Offset} {s t : State}
    (h : react (.hostRead size off) s = .next t) : t = { s with hostData := readValue s off } := by
  simp only [react, hostRead] at h
  split at h
  · injection h with h; exact h.symm
  · cases h

end Sys2Proof.Machine
end

