-- ==== Sys2Proof/Laws/Wire.lean ====
section
/-! SUPPORT. The byte-level functions of the codecs: lengths, and what stuffing and the bus scan can answer. -/

namespace Sys2Proof.Machine

/-! Stuffing -/

@[simp] theorem stuffAll_nil : stuffAll [] = [] := rfl

/-- Stuffing works byte by byte, in order (40 R400). -/
theorem stuffAll_cons (b : Byte) (l : List Byte) : stuffAll (b :: l) = stuff b ++ stuffAll l := rfl

/-- Stuffing a concatenation. -/
theorem stuffAll_append (l r : List Byte) : stuffAll (l ++ r) = stuffAll l ++ stuffAll r := by
  simp [stuffAll]

/-- The wire form of a byte is itself, or the escape byte and its escaped value (40 R400). -/
theorem stuff_cases (b : Byte) :
    (isReserved b = true ∧ stuff b = [esc, b ^^^ escXor]) ∨ (isReserved b = false ∧ stuff b = [b]) := by
  unfold stuff
  cases isReserved b <;> simp

/-- One or two wire bytes for each byte (40 R400). -/
theorem stuff_length (b : Byte) : 1 ≤ (stuff b).length ∧ (stuff b).length ≤ 2 := by
  rcases stuff_cases b with ⟨_, h⟩ | ⟨_, h⟩ <;> simp [h]

/-- A list of n bytes has n to 2n wire bytes (40 R400). -/
theorem stuffAll_length (l : List Byte) : l.length ≤ (stuffAll l).length ∧ (stuffAll l).length ≤ 2 * l.length := by
  induction l with
  | nil => simp
  | cons b l ih =>
    have := stuff_length b
    rw [stuffAll_cons, List.length_append, List.length_cons]
    omega

/-! The bus layout -/

/-- Three wire bytes for each pair (30 R315). -/
theorem crcPairs_length (p : List Byte) : (crcPairs p).length = 3 * (p.length / 2) := by
  fun_induction crcPairs p with
  | case1 a b r ih => simp only [List.length_cons, ih]; omega
  | case2 l h =>
    rcases l with _ | ⟨a, _ | ⟨b, r⟩⟩
    · rfl
    · simp
    · exact absurd rfl (h a b r)

/-! The bus scan -/

/-- The scan ends with OK, PROTOCOL or DATALEN (41 R473 to R477). -/
theorem scanTriples_class (n : Nat) (trunc : Bool) (d acc : List Byte) :
    (scanTriples n trunc d acc).cls = .ok ∨ (scanTriples n trunc d acc).cls = .protocol ∨
      (scanTriples n trunc d acc).cls = .dataLen := by
  fun_induction scanTriples n trunc d acc <;> simp_all

/-- The scan never accepts more than N bytes (41 R477). -/
theorem scanTriples_length {n : Nat} {trunc : Bool} {d acc : List Byte} (h : acc.length ≤ n) :
    (scanTriples n trunc d acc).data.length ≤ n := by
  fun_induction scanTriples n trunc d acc with
  | case2 => exact h
  | case4 a b c r acc h1 h2 h3 ih => apply ih; simp only [List.length_append, List.length_cons, List.length_nil]; omega
  | case5 => exact h
  | _ => simp

end Sys2Proof.Machine
end

