-- ==== Sys2Proof/Laws/Ops.lean ====
section
/-! SUPPORT. The shared operations and operands: what each can do, said once. -/

namespace Sys2Proof.Machine

/-! Operands -/

/-- The payload has PB_LEN bytes (10 R108). -/
theorem payload_length {s : State} {p : List Byte} (h : payload s = some p) : p.length = s.pbLen.toNat := by
  unfold payload at h
  split at h
  · cases h; simp
  · cases h

/-- The payload is missing exactly when PB_LEN covers a byte not written since reset (70 R704). -/
theorem payload_none {s : State} : payload s = none ↔ ∃ j, j < s.pbLen.toNat ∧ written s .pb j = false := by
  unfold payload
  split
  · rename_i h
    simp only [List.all_eq_true, List.mem_range] at h
    simp only [reduceCtorEq, false_iff, not_exists, not_and]
    intro j hj
    simp [h j hj]
  · rename_i h
    simpa using h

/-- The payload of a fully written PB, given its bytes. -/
theorem payload_some {s : State} {p : List Byte} (hl : s.pbLen.toNat = p.length)
    (h : ∀ k (hk : k < p.length), s.mem.read (Buf.pb.addr k) = some p[k]) : payload s = some p := by
  have hw : (List.range s.pbLen.toNat).all (fun i => written s .pb i) = true := by
    simp only [List.all_eq_true, List.mem_range]
    intro k hk
    simp [written, h k (hl ▸ hk)]
  unfold payload
  rw [if_pos hw]
  congr 1
  apply List.ext_getElem
  · simp [hl]
  · intro k h1 h2
    simp [bytesFrom, byteOf, h k h2]

/-! Stores -/

/-- The bytes stored at the start of a buffer are written. -/
theorem isSome_storeAll (s : State) (b : Buf) (l : List Byte) {i : Nat} (h : i < l.length) :
    ((storeAll b l s).mem.read (b.addr i)).isSome = true := by
  have := Memory.read_writeFrom (m := s.mem) (b := b) (i := 0) (l := l) (k := i) h
  rw [Nat.zero_add] at this
  simp [storeAll, this]

/-- Byte `k` of a list stored at the start of a buffer. -/
theorem read_storeAll (s : State) (b : Buf) (l : List Byte) {k : Nat} (h : k < l.length) :
    (storeAll b l s).mem.read (b.addr k) = some l[k] := by
  have := Memory.read_writeFrom (m := s.mem) (b := b) (i := 0) (l := l) (k := k) h
  rwa [Nat.zero_add] at this

/-- A store at the start of a buffer leaves every other offset alone. -/
theorem read_storeAll_other (s : State) (b : Buf) (l : List Byte) {a : Nat}
    (h : ∀ k, k < l.length → a ≠ b.addr k) : (storeAll b l s).mem.read a = s.mem.read a :=
  Memory.read_writeFrom_other (fun k hk => by rw [Nat.zero_add]; exact h k hk)

/-- The memory at reset is in canonical form. -/
theorem reset_mem_wf : State.reset.mem.wf := List.Pairwise.nil

/-! The end of a command -/

/-- PARAM changes only RESULT and DONE (30 R323). -/
theorem finish_param {s : State} (h : s.phase = .idle) : finish .param (accept s) =
    { s with result := { cls := .param, devCode := 0, devErr := false }, done := true } := by
  cases s; subst h; rfl

/-- The settle delay starts at 0, or is over at once when T = 0 (40 R413). -/
theorem enterSettle_cases (s : State) :
    (settleTime s ≠ 0 ∧ enterSettle s = { s with tmr := 0, phase := .settle }) ∨
    (settleTime s = 0 ∧ enterSettle s = finishSend .ok { s with tmr := 0, phase := .settle }) := by
  unfold enterSettle
  by_cases h : settleTime s = 0
  · exact .inr ⟨h, if_pos h⟩
  · exact .inl ⟨h, if_neg h⟩

/-! What is written to the buffers -/

/-- The validation writes memory only where it ends with OK, and then IB (40 R436). -/
theorem validate_mem (s : State) : (validate s).mem = s.mem ∨
    ((validate s).result.cls = .ok ∧ ∃ l, (validate s).mem = s.mem.writeFrom .ib 0 l) := by
  unfold validate
  dsimp only
  repeat' split
  all_goals (first | exact .inl rfl | exact .inr ⟨rfl, _, rfl⟩)

/-- A taken byte writes nothing, one RB byte, or, at the end of a receive with OK, IB (40 R425, R436). -/
theorem rxByte_mem (b : Byte) (s : State) : (rxByte b s).mem = s.mem ∨
    ((rxByte b s).result.cls = .ok ∧ (rxByte b s).phase = .idle ∧ (rxByte b s).done = true ∧
      ∃ l, (rxByte b s).mem = s.mem.writeFrom .ib 0 l) ∨
    ∃ k x, (rxByte b s).mem = s.mem.write (Buf.rb.addr k) x := by
  unfold rxByte storeBody
  repeat' split
  all_goals first | exact .inl rfl | exact .inr (.inr ⟨_, _, rfl⟩) | skip
  rcases validate_mem { s with rxst := .done } with h | ⟨h1, l, h⟩
  · exact .inl h
  · exact .inr (.inl ⟨h1, by rw [validate_frame], by rw [validate_frame], l, h⟩)

/-- A taken byte leaves RB_LEN or counts one (40 R425). -/
theorem rxByte_rbLen (b : Byte) (s : State) :
    (rxByte b s).rbLen = s.rbLen ∨ (rxByte b s).rbLen = s.rbLen + 1 := by
  unfold rxByte storeBody
  repeat' split
  all_goals first | exact .inl rfl | exact .inr rfl | (left; rw [validate_frame])

/-- A command writes memory only where it encodes, and then WB (40 R410, 41 R452). -/
theorem exec_mem {i : Instr} {s t : State} (h : exec i s = .next t) : t.mem = s.mem ∨
    (((∃ b, i = .sEncode b) ∨ i = .bEncode) ∧ ∃ l, t.mem = s.mem.writeFrom .wb 0 l) := by
  cases i <;> simp only [exec, execSEncode, execSSend, execSRecv, execBEncode, execBSend, execBRecv, execStuff,
    execUnstuff, execCksum, execCrc8] at h
  all_goals (repeat' split at h)
  all_goals (first | (cases h; done) | (injection h with h; subst h))
  all_goals (first | exact .inl rfl | exact .inr ⟨.inl ⟨_, rfl⟩, _, rfl⟩ | exact .inr ⟨.inr rfl, _, rfl⟩)

end Sys2Proof.Machine
end

