-- ==== Sys2Proof/Laws/PerInstr.lean ====
section
/-! SUPPORT. A statement about every command as syntax, one lemma per constructor: the fields a command is written with are
well formed (30_encoding.md R302, R323), so the block never answers a command's own word with PARAM for its form. -/

namespace Sys2Proof.Laws.FieldsWellFormed

/-- R323 holds of the fields that R302 gives the command. -/
def Statement (i : Instr) : Prop := (instrFields i).wellFormed = true

theorem sEncode (sub : Bool) : Statement (.sEncode sub) := by cases sub <;> rfl
theorem sSend (long : Bool) : Statement (.sSend long) := by cases long <;> rfl
theorem sRecv (n : Count) : Statement (.sRecv n) := by
  simp [Statement, instrFields, CmdFields.wellFormed, CmdFields.opDefined, CmdFields.reservedZero, CmdFields.unusedZero]
theorem bEncode : Statement .bEncode := rfl
theorem bSend (long : Bool) : Statement (.bSend long) := by cases long <;> rfl
theorem bRecv (trunc : Bool) (n : Count) : Statement (.bRecv trunc n) := by
  simp [Statement, instrFields, CmdFields.wellFormed, CmdFields.opDefined, CmdFields.reservedZero, CmdFields.unusedZero]
theorem stuff : Statement .stuff := rfl
theorem unstuff : Statement .unstuff := rfl
theorem cksum : Statement .cksum := rfl
theorem crc8 : Statement .crc8 := rfl

end Sys2Proof.Laws.FieldsWellFormed
end

