-- ==== Sys2Proof/Tests/Slice0.lean ====
section
/-! SUPPORT. The model's own tests: the three well-formedness checks, decoding of words written out from 30_encoding.md R300
to R302 and R330, one-step tests whose expected values are those of 95_test_vectors.md or of a rule's own example, and a
witness for the hypotheses of every statement that has some. -/

open Sys2Proof Sys2Proof.Machine

namespace Sys2Proof.Tests

/-! States -/

/-- Small parameters: PB_CAP 64, WB_CAP 140, IB_CAP 64, RB_CAP 64, T_RX 5, T_SET_S 2, T_SET_L 4. -/
def params : Params :=
  { pbCap := 64, ibCap := 64, rbExtra := 61, tRx := 5, tSetS := 2, tSetExtra := 1, busDevAddr := 0x6A }

/-- The reset state with the small parameters. -/
def base : State := { State.reset with params := params }

/-- After `wr CTRL, 1`. -/
def onStream : State := { base with xport := .stream }

/-- After `wr CTRL, 2`. -/
def onBus : State := { base with xport := .bus }

/-- PB holds a list and PB_LEN its length. -/
def load (l : List Byte) (s : State) : State :=
  { s with mem := s.mem.writeFrom .pb 0 l, pbLen := BitVec.ofNat 16 l.length }

/-- WB holds an encoding. -/
def encoded (l : List Byte) (s : State) : State :=
  { s with mem := s.mem.writeFrom .wb 0 l, wbLen := BitVec.ofNat 16 l.length }

/-- RB holds a raw body. -/
def body (l : List Byte) (s : State) : State :=
  { s with mem := s.mem.writeFrom .rb 0 l, rbLen := BitVec.ofNat 16 l.length }

/-- S_SEND of the golden frame, at its last byte. -/
def inTx : State :=
  { encoded [0x7E, 0x00, 0x00, 0x00, 0xFF, 0x7E] onStream with
    phase := .tx, txi := 5, latch := { op := 0x2, long := false, trunc := false, n := 0 } }

/-- A long send one Tick before its end. -/
def inSettle : State :=
  { encoded [0x7E] onStream with
    phase := .settle, tmr := 3, latch := { op := 0x2, long := true, trunc := false, n := 0 } }

/-- S_RECV in a state of its machine, with an expected count, a raw body so far and queued bytes. -/
def inRx (x : RxState) (n : Count) (raw queue : List Byte) : State :=
  { body raw onStream with
    phase := .rx, rxst := x, rxQueue := queue, latch := { op := 0x3, long := false, trunc := false, n := n } }

/-- B_SEND waiting for its write. -/
def inBusWr : State :=
  { encoded [0x01, 0x04] onBus with
    phase := .busWr, busReq := some (.write 0x6A [0x01, 0x04]),
    latch := { op := 0x6, long := true, trunc := false, n := 0 } }

/-- B_RECV waiting for its data. -/
def inBusRd (n : Count) (trunc : Bool) : State :=
  { onBus with
    phase := .busRd, busReq := some (.read 0x6A (busRawCount n)),
    latch := { op := 0x7, long := false, trunc := trunc, n := n } }

/-- The next state of an answer. -/
def next : Answer → Option State
  | .next s => some s
  | .fault _ => none
  | .refused _ => none

/-- The fault of an answer. -/
def faultOf : Answer → Option Fault
  | .next _ => none
  | .fault f => some f
  | .refused _ => none

/-- The refusal of an answer. -/
def refusalOf : Answer → Option Refusal
  | .next _ => none
  | .fault _ => none
  | .refused r => some r

/-- RESULT's class and WB's encoding after a command. -/
def encodingOf (a : Answer) : Option (ResultClass × List Byte) := (next a).map fun t => (t.result.cls, wireBytes t)

/-- RESULT's class and IB's payload after a step. -/
def payloadOf (a : Answer) : Option (ResultClass × List Byte) :=
  (next a).map fun t => (t.result.cls, bytesFrom t .ib 0 t.ibLen.toNat)

/-! Well-formedness: an ill-formed word for each check (30 R323) -/

theorem test_wf_reserved_op : CmdFields.opDefined
    { op := 0x4, long := false, sub := false, trunc := false, reserved := 0, n := 0 } = false := by decide
theorem test_wf_reserved_bits : CmdFields.reservedZero
    { op := 0x8, long := false, sub := false, trunc := false, reserved := 1, n := 0 } = false := by decide
theorem test_wf_unused_long : CmdFields.unusedZero
    { op := 0x1, long := true, sub := false, trunc := false, reserved := 0, n := 0 } = false := by decide
theorem test_wf_unused_sub : CmdFields.unusedZero
    { op := 0x2, long := false, sub := true, trunc := false, reserved := 0, n := 0 } = false := by decide
theorem test_wf_unused_trunc : CmdFields.unusedZero
    { op := 0x3, long := false, sub := false, trunc := true, reserved := 0, n := 0 } = false := by decide
theorem test_wf_unused_n : CmdFields.unusedZero
    { op := 0x5, long := false, sub := false, trunc := false, reserved := 0, n := 1 } = false := by decide
theorem test_wf_word_refused : cmdWellFormed 0x00000081 = false ∧ cmdWellFormed 0x00000000 = false ∧
    cmdWellFormed 0x00010008 = false := by decide

/-! Decoding: words written out bit by bit from 30 R300 to R302; OP is bits 3:0, LONG 4, SUB 5, TRUNC 6, N 31:16 -/

theorem test_decode_s_encode : decode 0b00000000000000000000000000100001#32 = .ok (.sEncode true) := by decide
theorem test_decode_s_send : decode 0b00000000000000000000000000010010#32 = .ok (.sSend true) := by decide
theorem test_decode_s_recv : decode 0b10000000000000010000000000000011#32 = .ok (.sRecv 0x8001) := by decide
theorem test_decode_b_encode : decode 0b00000000000000000000000000000101#32 = .ok .bEncode := by decide
theorem test_decode_b_send : decode 0b00000000000000000000000000010110#32 = .ok (.bSend true) := by decide
theorem test_decode_b_recv : decode 0b00000000000110000000000001000111#32 = .ok (.bRecv true 24) := by decide
theorem test_decode_stuff : decode 0b00000000000000000000000000001000#32 = .ok .stuff := by decide
theorem test_decode_unstuff : decode 0b00000000000000000000000000001001#32 = .ok .unstuff := by decide
theorem test_decode_cksum : decode 0b00000000000000000000000000001010#32 = .ok .cksum := by decide
theorem test_decode_crc8 : decode 0b00000000000000000000000000001011#32 = .ok .crc8 := by decide
theorem test_decode_rejects : decode 0x0000000C = .error .reservedOp ∧ decode 0x00000101 = .error .reservedBits ∧
    decode 0x00000011 = .error .unusedField := by decide

/-- Each row of the opcode table, by its `match` word, is its own command. -/
theorem test_table_words : (List.range 16).map (decodeTableWord 32) =
    [none, some (.sEncode false), some (.sSend false), some (.sRecv 0), none, some .bEncode, some (.bSend false),
      some (.bRecv false 0), some .stuff, some .unstuff, some .cksum, some .crc8, none, none, none, none] := by decide

/-- The very next step after reset runs the placed command: PARAM for a codec command, since XPORT is none, and OK for
a primitive (30 R321). -/
theorem test_first_step : [0x1, 0x2, 0x3, 0x5, 0x6, 0x7, 0x8, 0x9, 0xA, 0xB].map
    (fun w => (next (step (State.reset.withFetchWord 32 w))).map fun t => (t.result.cls, t.done)) =
    (List.replicate 6 (some (ResultClass.param, true))) ++ List.replicate 4 (some (.ok, true)) := by decide

/-! One step of each instruction: expected values from 95_test_vectors.md and the rules' examples -/

/-- V-SE6. -/
theorem test_s_encode_form_b : encodingOf (exec (.sEncode true)
    (load [0x7D, 0x7E] { onStream with lead := 0x11, subc := 0x13 })) =
    some (.ok, [0x7E, 0x00, 0x7D, 0x31, 0x03, 0x7D, 0x33, 0x7D, 0x5D, 0x7D, 0x5E, 0xDD, 0x7E]) := by decide
/-- R411's example. -/
theorem test_s_encode_checksum_stuffed : encodingOf (exec (.sEncode false) { onStream with lead := 0x81 }) =
    some (.ok, [0x7E, 0x00, 0x81, 0x00, 0x7D, 0x5E, 0x7E]) := by decide
/-- R412. -/
theorem test_s_send_starts : (next (exec (.sSend true) (encoded [0x7E] onStream))).map
    (fun t => (t.phase, t.txi, t.done, txOffer t, t.latch.long)) = some (.tx, 0, false, some 0x7E, true) := by decide
/-- R414: the last accept enters SETTLE and leaves WB_LEN until the delay has passed. -/
theorem test_s_send_last_accept : (next (react .txAccept inTx)).map (fun t => (t.phase, t.tmr, t.wbLen, t.txWire)) =
    some (.settle, 0, 6, [0x7E]) := by decide
/-- R413: the Tick that makes TMR = T_SET_L finishes. -/
theorem test_settle_ends : (next (react .tick inSettle)).map (fun t => (t.phase, t.done, t.wbLen, t.result.cls)) =
    some (.idle, true, 0, .ok) := by decide
/-- R420. -/
theorem test_s_recv_starts : (next (exec (.sRecv 3) { onStream with rxst := .error, rbLen := 7, tmr := 9 })).map
    (fun t => (t.phase, t.rxst, t.rbLen, t.tmr, t.latch.n)) = some (.rx, .awaitDelim, 0, 0, 3) := by decide
/-- R433: a status byte 0x85 gives DEVCODE 5 and DEVERR 1. -/
theorem test_s_recv_device_status : (next (react .rxTake (inRx .inBody 0 [0x00, 0x00, 0x85, 0x7A] [0x7E]))).map
    (fun t => (t.result, t.rxst, t.ibLen)) =
    some ({ cls := .devStatus, devCode := 5, devErr := true }, .done, 0) := by decide
/-- R452's example. -/
theorem test_b_encode : encodingOf (exec .bEncode (load [0x00, 0x00, 0x12, 0x34] { onBus with regAddr := 0x6014 })) =
    some (.ok, [0x60, 0x14, 0x00, 0x00, 0x81, 0x12, 0x34, 0x37]) := by decide +kernel
/-- R452: no payload, only the address. -/
theorem test_b_encode_address_only : encodingOf (exec .bEncode { onBus with regAddr := 0x0104 }) =
    some (.ok, [0x01, 0x04]) := by decide
/-- R460's example. -/
theorem test_b_send : (next (exec (.bSend true) (encoded [0x01, 0x04] onBus))).map
    (fun t => (t.phase, t.busReq)) = some (.busWr, some (.write 0x6A [0x01, 0x04])) := by decide
/-- R461: a non-zero status is PROTOCOL at once. -/
theorem test_b_send_fails : (next (react (.busDone 2) inBusWr)).map
    (fun t => (t.phase, t.result.cls, t.wbLen, t.busReq)) = some (.idle, .protocol, 0, none) := by decide
/-- R470: odd N requests (N div 2) * 3 bytes. -/
theorem test_b_recv_request : (next (exec (.bRecv false 5) onBus)).map (fun t => (t.phase, t.busReq)) =
    some (.busRd, some (.read 0x6A 6)) := by decide
/-- V-BR5. -/
theorem test_b_recv_truncates : payloadOf (react (.busData
    [0x53, 0x56, 0x93, 0x4D, 0x34, 0x49, 0x30, 0x00, 0x33, 0x00, 0x00, 0x81, 0xAA, 0xAA, 0xB7]) (inBusRd 24 true)) =
    some (.ok, [0x53, 0x56, 0x4D, 0x34, 0x30, 0x00]) := by decide +kernel
/-- R500's example. -/
theorem test_stuff : (next (exec .stuff { base with primIn0 := 0x7E })).map (fun t => primOutWord t.primOut) =
    some 0x005E7D02 := by decide
/-- R501's example. -/
theorem test_unstuff : (next (exec .unstuff { base with primIn0 := 0x7D, primIn1 := 0x5E })).map
    (fun t => (t.result.cls, primOutWord t.primOut)) = some (.ok, 0x00007E02) := by decide
/-- R501: 7D 7E is a bad escape. -/
theorem test_unstuff_bad : (next (exec .unstuff { base with primIn0 := 0x7D, primIn1 := 0x7E })).map
    (fun t => (t.result.cls, primOutWord t.primOut)) = some (.protocol, 0) := by decide
/-- R502's example. -/
theorem test_cksum : (next (exec .cksum (load [0x00, 0xD1, 0x00] base))).map State.chk = some 0x2E := by decide
/-- R502: the empty payload. -/
theorem test_cksum_empty : (next (exec .cksum base)).map State.chk = some 0xFF := by decide
/-- R503's example. -/
theorem test_crc8 : (next (exec .crc8 (load [0xBE, 0xEF] base))).map State.chk = some 0x92 := by decide +kernel
/-- R704: a PB byte that nothing has written. -/
theorem test_crc8_unwritten : faultOf (exec .crc8 { load [0xBE] base with pbLen := 2 }) = some .unwrittenPayload := by
  decide

/-! The codes of the fields, and the host's transactions -/

/-- R120, R121, R601: the numbers of the tables. -/
theorem test_codes :
    [Phase.idle, .tx, .settle, .rx, .busWr, .busRd].map phaseCode = [0, 1, 2, 3, 4, 5] ∧
    [RxState.awaitDelim, .inBody, .escape, .done, .error].map rxstCode = [0, 1, 2, 3, 4] ∧
    [ResultClass.ok, .param, .dataLen, .protocol, .timeout, .cmdState, .devStatus].map classCode =
      [0, 1, 2, 3, 4, 5, 6] := by decide
/-- R655: a bus read writes REGADDR and PB_LEN = 0, sends the address alone, waits, and reads with TRUNC = 1 for an
identifier string; the words are those of R330 and R331. -/
theorem test_bus_read : (busReadTransaction 0x0104 24 true).map HostLine.input =
    [.hostWrite .word 0x0014 0x0104, .hostWrite .word 0x0018 0, .hostWrite .word 0x0008 0x5, .hostWrite .word 0x0008 0x6,
      .hostRead .word 0x0004, .hostWrite .word 0x0008 0x00180047, .hostRead .word 0x0004] := by decide
/-- R655: a persist-to-storage write on the bus takes the long settle delay. -/
theorem test_bus_write : (busWriteTransaction 0x6014 [0x12, 0x34] true false).map HostLine.input =
    [.hostWrite .word 0x0014 0x6014, .hostWrite .word 0x2000 0x12, .hostWrite .word 0x2004 0x34,
      .hostWrite .word 0x0018 2, .hostWrite .word 0x0008 0x5, .hostWrite .word 0x0008 0x16,
      .hostRead .word 0x0004] := by decide
/-- R655: a device reset on the stream takes the long settle delay. -/
theorem test_stream_transaction : (streamTransaction 0xD3 0x01 true [] false true 2).map HostLine.input =
    [.hostWrite .word 0x0010 0x000001D3, .hostWrite .word 0x0018 0, .hostWrite .word 0x0008 0x21,
      .hostWrite .word 0x0008 0x12, .hostRead .word 0x0004, .hostWrite .word 0x0008 0x00020003,
      .hostRead .word 0x0004] := by decide

/-! Witnesses: for every statement with hypotheses, states and operands that meet them, at the bounds of their ranges -/

/-- One step on a placed input. -/
def given (i : Input) (s : State) : State := { s with inputs := [i] }

/-- A write to CMD. -/
def cmd (v : Word) : Input := .hostWrite .word 0x0008 v

theorem witness_DecodeThenEncode : decode 0xFFFF0047 = .ok (.bRecv true 0xFFFF) := by decide

theorem witness_ParamWritesOnlyResultAndDone :
    (base.phase = .idle ∧ ¬ ∃ i, decode 0x00000081 = .ok i) ∧
    (∃ t, base.phase = .idle ∧ exec (.sSend true) base = .next t ∧ t.done = true ∧ t.result.cls = .param) := by
  refine ⟨⟨rfl, ?_⟩, _, rfl, rfl, rfl, rfl⟩
  rintro ⟨i, h⟩
  have e : decode 0x00000081 = .error .reservedBits := by decide
  rw [e] at h
  cases h

theorem witness_StepRunsDecodedCommand :
    (given .tick base).inputs = .tick :: [] ∧
    (given (cmd 0x8) base).inputs = .hostWrite .word 0x0008 0x8 :: [] ∧ (given (cmd 0x8) base).phase = .idle ∧
    decode 0x8 = .ok .stuff := by decide

/-- The first and the last offset of each range. -/
theorem witness_UnmappedReadsZeroIgnoresWrites :
    (∀ x ∈ [0x0034, 0x1FFC, 0xA000, 0xFFFC], x % 4 = 0 ∧ (0x0034 ≤ x ∧ x < 0x2000 ∨ 0xA000 ≤ x)) ∧
    (∀ i ∈ [64, 2047], base.params.pbCap.val ≤ i ∧ base.params.ibCap.val ≤ i ∧ base.params.rbCap ≤ i ∧ i < 2048) ∧
    (∀ i ∈ [140, 2047], base.params.wbCap ≤ i ∧ i < 2048) := by decide

theorem witness_HostReadHasNoSideEffect : ∃ t, react (.hostRead .word 0x4000) inTx = .next t := ⟨_, rfl⟩

theorem witness_TransportWrittenOnce :
    (base.phase = .idle ∧ base.xport = .none) ∧ (onBus.phase = .idle ∧ onBus.xport ≠ .none) ∧
    (∃ t, react .reset inTx = .next t) ∧
    (∃ t, step (given (.hostWrite .word 0 2) base) = .next t ∧
      nextInput (given (.hostWrite .word 0 2) base) ≠ .reset ∧ t.xport ≠ base.xport) :=
  ⟨by decide, by decide, ⟨_, rfl⟩, _, rfl, by decide, by decide⟩

theorem witness_BusyWritesRejected : inTx.phase ≠ .idle ∧ 0x0028#16 ∈ [0x0000#16, 0x0008#16, 0x0010#16, 0x0014#16,
    0x0018#16, 0x0028#16] ∧ 63 < inTx.params.pbCap.val ∧ (0x20FC#16).toNat = 0x2000 + 4 * 63 := by decide

theorem witness_OperandRegistersHoldWrites :
    base.phase = .idle ∧
    (∃ t u, react (.hostWrite .word 0x0028 0xFFFFFFFF) base = .next t ∧ react (.hostRead .word 0x0028) t = .next u) ∧
    (∃ t, exec .stuff base = .next t) := ⟨rfl, ⟨_, _, rfl, rfl⟩, _, rfl⟩

theorem witness_PayloadByteHoldsWrite : base.phase = .idle ∧ 63 < base.params.pbCap.val := by decide

theorem witness_PayloadWrittenOnlyByHost :
    ∃ t, step (given (.hostWrite .word 0x20FC 0x1AA) base) = .next t ∧ 63 < base.params.pbCap.val :=
  ⟨_, rfl, by decide⟩

/-- A full IB whose last byte is written. -/
def received : State := { onBus with mem := [(0x60FC, 0x22)], ibLen := 64 }

/-- The last byte below each length register, and the first and last offsets of the windows. -/
theorem witness_ReadOnlyRegisters : onBus.phase = .idle ∧
    ((encoded [0x7E, 0x01] onBus).phase = .idle ∧ (encoded [0x7E, 0x01] onBus).mem.read (0x4004#16).toNat = some 0x01 ∧
      (0x4004#16).toNat = 0x4000 + 4 * 1 ∧ 1 < (encoded [0x7E, 0x01] onBus).wbLen.toNat ∧ 1 < onBus.params.wbCap) ∧
    (received.phase = .idle ∧ received.mem.read (0x60FC#16).toNat = some 0x22 ∧ (0x60FC#16).toNat = 0x6000 + 4 * 63 ∧
      63 < received.ibLen.toNat ∧ 63 < received.params.ibCap.val) ∧
    ((body [0x33] onStream).phase = .idle ∧ (body [0x33] onStream).mem.read (0x8000#16).toNat = some 0x33 ∧
      (0x8000#16).toNat = 0x8000 + 4 * 0 ∧ 0 < (body [0x33] onStream).rbLen.toNat ∧ 0 < onStream.params.rbCap) ∧
    0x0030#16 ∈ [0x000C#16, 0x001C#16, 0x0020#16, 0x0024#16, 0x002C#16, 0x0030#16] ∧
    (∀ off ∈ [0x4000#16, 0x9FFC#16], off.toNat % 4 = 0 ∧ 0x4000 ≤ off.toNat ∧ off.toNat < 0xA000) :=
  ⟨by decide, ⟨by decide, by decide, by simp, by decide, by decide⟩, ⟨by decide, by decide, by simp, by decide, by decide⟩,
    ⟨by decide, by decide, by simp, by decide, by decide⟩, by decide, by simp⟩

theorem witness_ReadsWhileBusy :
    (inTx.phase ≠ .idle ∧ (∃ t, react (.hostRead .word 0x000C) inTx = .next t) ∧
      (∃ t, react (.hostRead .word 0x0024) inTx = .next t) ∧ (∃ t, react (.hostRead .word 0x4000) inTx = .next t) ∧
      (∃ t, react (.hostRead .word 0x9FFC) inTx = .next t)) ∧
    ((load [0x55] inTx).phase ≠ .idle ∧ (0x2000#16).toNat = 0x2000 + 4 * 0 ∧ 0 < inTx.params.pbCap.val ∧
      (load [0x55] inTx).mem.read (0x2000#16).toNat = some 0x55) :=
  ⟨⟨by decide, ⟨_, rfl⟩, ⟨_, rfl⟩, ⟨_, rfl⟩, _, rfl⟩, by decide⟩

theorem witness_ResetInput : base.phase ≠ .busWr ∧ base.phase ≠ .busRd ∧ (inBusRd 2 false).phase ≠ .busWr ∧
    inBusWr.phase ≠ .busRd := by decide

/-- A state that no reset leaves: a bus read in progress. -/
theorem witness_InvariantKept : BlockInv (given (.busData [0xBE, 0xEF, 0x92]) (inBusRd 2 false)) ∧
    ∃ t, step (given (.busData [0xBE, 0xEF, 0x92]) (inBusRd 2 false)) = .next t := by
  refine ⟨?_, _, rfl⟩
  constructor <;> simp [given, inBusRd, onBus, base, State.reset, InWindows, Written, readRequest, params]

theorem witness_ParametersFixed : ∃ t, step (given .tick inSettle) = .next t := ⟨_, rfl⟩

theorem witness_TransportMustMatch :
    (onBus.phase = .idle ∧ onBus.xport ≠ .stream) ∧ (onStream.phase = .idle ∧ onStream.xport ≠ .bus) ∧
    (Instr.crc8 ∈ [.stuff, .unstuff, .cksum, .crc8] ∧ ∃ t, exec .crc8 base = .next t) :=
  ⟨by decide, by decide, by decide, _, rfl⟩

theorem witness_OversizeIsParam : onStream.phase = .idle ∧
    ({ onStream with pbLen := 65 } : State).params.pbCap.val < (65 : Count).toNat ∧
    onStream.params.ibCap.val < (65 : Count).toNat := by decide

theorem witness_OwnChecksAreParam : onStream.phase = .idle ∧ (load [0x00] onStream).pbLen ≠ 0 ∧
    254 < ({ onStream with pbLen := 255 } : State).pbLen.toNat ∧ (load [0x00] onBus).pbLen.toNat % 2 = 1 ∧
    onStream.wbLen = 0 := by decide

theorem witness_SEncodeBuildsFrame :
    (∀ p ∈ [[], [0x7D, 0x7E], List.replicate 64 (0x55 : Byte)],
      (load p onStream).phase = .idle ∧ (load p onStream).xport = .stream ∧
      (load p onStream).pbLen.toNat ≤ (load p onStream).params.pbCap.val ∧ (load p onStream).pbLen.toNat = p.length ∧
      (∀ k (h : k < p.length), (load p onStream).mem.read (0x2000 + 4 * k) = some p[k]) ∧ p.length ≤ 254) := by
  decide

theorem witness_BEncodeBuildsTransaction :
    (∀ p ∈ [[], [0x00, 0x00, 0x12, 0x34], List.replicate 64 (0x55 : Byte)],
      (load p onBus).phase = .idle ∧ (load p onBus).xport = .bus ∧
      (load p onBus).pbLen.toNat ≤ (load p onBus).params.pbCap.val ∧ (load p onBus).pbLen.toNat = p.length ∧
      p.length % 2 = 0 ∧
      (∀ k (h : k < p.length), (load p onBus).mem.read (0x2000 + 4 * k) = some p[k])) := by
  decide

theorem witness_EncodingsFitWireBuffer : (List.replicate 64 (0x7E : Byte)).length ≤ params.pbCap.val := by decide

/-- The golden frame, waiting to be sent. -/
def golden : State := encoded [0x7E, 0x00, 0x00, 0x00, 0xFF, 0x7E] onStream

theorem witness_SSendTransmitsFrame : golden.phase = .idle ∧ golden.xport = .stream ∧ golden.wbLen ≠ 0 ∧
    Written golden.mem .wb golden.wbLen.toNat ∧ 5 < golden.wbLen.toNat ∧ 1 < golden.params.tSetS := by
  refine ⟨rfl, rfl, by decide, ?_, by decide, by decide⟩
  unfold Written
  decide

theorem witness_OnlyAcceptsAdvanceTx : inTx.phase = .tx ∧ ({ inTx with txi := 4 } : State).txi + 1 ≠ inTx.wbLen.toNat ∧
    ∃ t, react (.busDone 0) inTx = .next t := ⟨rfl, by decide, _, rfl⟩

theorem witness_SettleDelayLastsT : inSettle.phase = .settle ∧ inSettle.tmr < settleTime inSettle ∧
    0 < settleTime inSettle - inSettle.tmr ∧ ∃ t, react .rxTake inSettle = .next t := ⟨rfl, by decide, by decide, _, rfl⟩

theorem witness_BusCommandsIssueOneRequest : onBus.phase = .idle ∧ onBus.xport = .bus ∧ (encoded [0x01] onBus).wbLen ≠ 0 ∧
    (64 : Count).toNat ≤ onBus.params.ibCap.val := by decide

/-- B_SEND with a short settle delay of no Ticks. -/
def instant : State :=
  { inBusWr with params := { params with tSetS := 0 }, latch := { op := 0x6, long := false, trunc := false, n := 0 } }

theorem witness_BusCompletionEndsWrite : inBusWr.phase = .busWr ∧ (0xFF : Byte) ≠ 0 ∧ settleTime inBusWr ≠ 0 ∧
    instant.phase = .busWr ∧ settleTime instant = 0 := by decide

theorem witness_BusWaitsHaveNoTimeout : inBusWr.phase = .busWr ∧ (inBusRd 2 false).phase = .busRd ∧
    (∃ t, react (.busData []) inBusWr = .next t) ∧ ∃ t, react (.busDone 0) (inBusRd 2 false) = .next t :=
  ⟨rfl, rfl, ⟨_, rfl⟩, _, rfl⟩

theorem witness_SRecvStartsReassembly : onStream.phase = .idle ∧ onStream.xport = .stream ∧
    (64 : Count).toNat ≤ onStream.params.ibCap.val := by decide

theorem witness_EventsActOnlyWhenEnabled : inTx.phase ≠ .rx ∧ (inRx .done 0 [] [0x7E]).rxst = .done ∧
    (inRx .error 0 [] [0x7E]).rxst = .error ∧ (inRx .inBody 0 [] []).rxQueue = [] ∧
    (inRx .escape 0 [] [0x31, 0x7E]).phase = .rx ∧ (inRx .escape 0 [] [0x31, 0x7E]).rxst = .escape ∧
    (inRx .escape 0 [] [0x31, 0x7E]).rxQueue = 0x31 :: [0x7E] ∧ inSettle.phase ≠ .tx ∧
    inBusWr.phase ∈ [Phase.idle, .tx, .busWr, .busRd] := by decide

theorem witness_ReassemblyTransitions : (inRx .awaitDelim 0 [] []).rxst = .awaitDelim ∧
    (inRx .inBody 0 [] []).rxst = .inBody ∧ (0x11 : Byte) ≠ 0x7E ∧ (0x11 : Byte) ≠ 0x7D ∧
    (inRx .escape 0 [] []).rxst = .escape ∧ 0x5E#8 ∈ [0x31#8, 0x33#8, 0x5D#8, 0x5E#8] ∧
    0x7E#8 ∉ [0x31#8, 0x33#8, 0x5D#8, 0x5E#8] ∧
    ({ inRx .inBody 0 [] [] with rbLen := 64 } : State).rbLen.toNat = params.rbCap ∧
    ({ inRx .inBody 0 [] [] with rbLen := 63 } : State).rbLen.toNat ≠ params.rbCap := by decide

/-- A raw body for each clause: short, bad checksum, device status, wrong length byte, wrong expected length (with and
without a length byte), and success with no length byte and with one. -/
theorem witness_ValidationChecksInOrder :
    (inRx .done 0 [0x00, 0xFF] []).rbLen.toNat = 2 ∧
    (cks8 (bytesFrom (inRx .done 0 [0x00, 0x00, 0x00] []) .rb 0 2) ≠ byteOf (inRx .done 0 [0x00, 0x00, 0x00] []) .rb 2) ∧
    (cks8 (bytesFrom (inRx .done 0 [0x00, 0x00, 0xFF] []) .rb 0 2) = byteOf (inRx .done 0 [0x00, 0x00, 0xFF] []) .rb 2 ∧
      byteOf (inRx .done 0 [0x00, 0x00, 0xFF] []) .rb 2 ≠ 0) ∧
    (∀ raw ∈ [[0x00, 0x00, 0x00, 0x01, 0xFE], [0x00, 0x00, 0x00, 0x00, 0xFF], [0x00, 0x00, 0x00, 0xFF],
        [0x00, 0x00, 0x00, 0x01, 0x22, 0xDC]],
      (inRx .done 1 raw []).rbLen.toNat = raw.length ∧
      cks8 (bytesFrom (inRx .done 1 raw []) .rb 0 (raw.length - 1)) = byteOf (inRx .done 1 raw []) .rb (raw.length - 1) ∧
      byteOf (inRx .done 1 raw []) .rb 2 = 0) ∧
    (byteOf (inRx .done 1 [0x00, 0x00, 0x00, 0x01, 0xFE] []) .rb 3).toNat ≠ 5 - 5 ∧
    (byteOf (inRx .done 1 [0x00, 0x00, 0x00, 0x00, 0xFF] []) .rb 3).toNat = 5 - 5 ∧
    (byteOf (inRx .done 1 [0x00, 0x00, 0x00, 0x01, 0x22, 0xDC] []) .rb 3).toNat = 6 - 5 := by decide

theorem witness_ReceiveTimesOut :
    (∃ t, exec (.sRecv 1) onStream = .next t ∧ t.phase = .rx) ∧
    (inRx .escape 0 [] [0x31]).phase = .rx ∧ (inRx .escape 0 [] [0x31]).rxst = .escape ∧
    (inRx .escape 0 [] [0x31]).tmr ≤ params.tRx ∧ 5 < params.tRx + 1 - (inRx .escape 0 [] [0x31]).tmr ∧
    (inRx .escape 0 [] [0x31]).rxQueue = 0x31 :: [] := ⟨⟨_, rfl, rfl⟩, by decide⟩

theorem witness_StuffedBodyIsReassembled : (inRx .inBody 0 [] []).rxst = .inBody ∧
    (inRx .inBody 0 [] []).rbLen.toNat + (List.replicate 64 (0x7E : Byte)).length ≤ params.rbCap := by decide

/-- V-SR with a stuffed payload byte and one byte after the frame. -/
theorem witness_ResponseFrameIsReceived :
    let body : List Byte := [0x00, 0x03, 0x00, BitVec.ofNat 8 1] ++ [0x7E]
    let s : State := { onStream with rxQueue := streamFrame body ++ [0x7E] }
    s.phase = .idle ∧ s.xport = .stream ∧ (1 : Count).toNat = [0x7E#8].length ∧ [0x7E#8].length ≤ s.params.ibCap.val ∧
    [0x7E#8].length + 5 ≤ s.params.rbCap ∧ [0x7E#8].length ≤ 255 ∧ s.rxQueue = streamFrame body ++ [0x7E] := by decide

theorem witness_DeliveryEndsBusRead : (inBusRd 2 false).phase = .busRd ∧
    (next (react (.busData []) (inBusRd 2 false))).map (fun t => t.result.cls) = some .protocol ∧
    (next (react (.busData [0xBE, 0xEF, 0x00]) (inBusRd 2 false))).map (fun t => t.result.cls) = some .protocol ∧
    (next (react (.busData [0xBE, 0xEF, 0x92]) (inBusRd 2 false))).map (fun t => t.result.cls) = some .ok := by
  decide +kernel

theorem witness_ProtectedPairsRoundTrip : [0xBE#8, 0xEF#8] ≠ [] ∧ [0xBE#8, 0xEF#8].length % 2 = 0 := by decide

theorem witness_CrcMismatchIsProtocol : [0xBE#8, 0xEF#8].length % 2 = 0 ∧ [0xBE#8, 0xEF#8].length ≤ 2 ∧
    (∀ k (h : 2 * k + 1 < [0xBE#8, 0xEF#8].length), ¬ ([0xBE#8, 0xEF#8][2 * k] = 0 ∧ [0xBE#8, 0xEF#8][2 * k + 1] = 0)) ∧
    crc8 [0x00, 0x00] ≠ 0x80 := by
  refine ⟨by decide, by decide, ?_, by decide +kernel⟩
  intro k h
  have : k = 0 := by simp at h; omega
  subst this
  simp

theorem witness_TruncationStopsAtZeroPair : [0x00#8, 0x01#8].length % 2 = 0 ∧ [0x00#8, 0x01#8].length ≤ 2 ∧
    (∀ k (h : 2 * k + 1 < [0x00#8, 0x01#8].length), ¬ ([0x00#8, 0x01#8][2 * k] = 0 ∧ [0x00#8, 0x01#8][2 * k + 1] = 0)) := by
  refine ⟨by decide, by decide, ?_⟩
  intro k h
  have : k = 0 := by simp at h; omega
  subst this
  simp

/-- Too few (V-S6), too many, and a stray byte. -/
theorem witness_WrongCountIsDataLen : [0x12#8, 0x34#8].length % 2 = 0 ∧ crcPairs [0x12#8, 0x34#8] ++ [] ≠ [] ∧
    [0x12#8, 0x34#8].length ≠ 4 ∧ [0x12#8, 0x34#8].length ≠ 0 ∧ [0x12#8, 0x34#8].length = 2 ∧ [0x00#8].length ≤ 2 ∧
    [0x00#8] ≠ [] := by decide

theorem witness_StuffResult : base.phase = .idle ∧ 0x7E#8 ∈ [0x11#8, 0x13#8, 0x7D#8, 0x7E#8] ∧
    0x31#8 ∉ [0x11#8, 0x13#8, 0x7D#8, 0x7E#8] := by decide

theorem witness_UnstuffResult : base.phase = .idle ∧ 0x5E#8 ∈ [0x31#8, 0x33#8, 0x5D#8, 0x5E#8] ∧
    0x7E#8 ∉ [0x31#8, 0x33#8, 0x5D#8, 0x5E#8] := by decide

theorem witness_CksumAndCrc8Results : ∀ p ∈ [[], [0xBE, 0xEF], List.replicate 64 (0xFF : Byte)],
    (load p base).phase = .idle ∧ (load p base).pbLen.toNat ≤ (load p base).params.pbCap.val ∧
    (load p base).pbLen.toNat = p.length ∧
    (∀ k (h : k < p.length), (load p base).mem.read (0x2000 + 4 * k) = some p[k]) := by decide

theorem witness_StuffUnstuffRoundTrip : 0x7E#8 ∈ [0x11#8, 0x13#8, 0x7D#8, 0x7E#8] ∧
    0x31#8 ∉ [0x11#8, 0x13#8, 0x7D#8, 0x7E#8] ∧ (inRx .inBody 0 [] []).rxst = .inBody := by decide

theorem witness_CrcDetectsOneByteChange : (0x00 : Byte) ≠ 0x80 := by decide

/-- Both sides of the equivalence are met, and neither always. -/
theorem witness_FaultIsUnwrittenPayload :
    faultOf (step (given (cmd 0xB) { base with pbLen := 1 })) = some .unwrittenPayload ∧
    (next (step (given (cmd 0xB) (load [0x00] base)))).isSome = true := by decide

theorem witness_RefusalIsUnsupportedAccess :
    refusalOf (step (given (.hostRead .half 0x0004) base)) = some .unsupportedAccess ∧
    refusalOf (step (given (.hostWrite .word 0x0002 0) base)) = some .unsupportedAccess ∧
    (next (step (given (.hostRead .word 0xFFFC) base))).isSome = true := by decide

theorem witness_RejSetAndClearedOnlyByHost :
    (∃ t, step (given (.hostWrite .word 0x0010 0) inTx) = .next t ∧ t.rej ≠ inTx.rej) ∧
    (∃ t, step (given (.hostWrite .word 0x20FC 0) inTx) = .next t ∧ t.rej ≠ inTx.rej) ∧
    (∃ t, step (given (.hostWrite .word 0x0004 4) { base with rej := true }) = .next t ∧ t.rej ≠ true) :=
  ⟨⟨_, rfl, by decide⟩, ⟨_, rfl, by decide⟩, _, rfl, by decide⟩

theorem witness_QueuedBytesNeverDiscarded :
    (∃ t, step (given (.rxArrive 0x7E) base) = .next t ∧ t.rxQueue = [0x7E]) ∧
    (∃ t, step (given .rxTake (inRx .awaitDelim 0 [] [0x7E])) = .next t ∧ t.rxQueue = []) :=
  ⟨⟨_, rfl, rfl⟩, _, rfl, rfl⟩

theorem witness_RxstWrittenOnlyBySRecv :
    (∃ t, step (given .rxTake (inRx .awaitDelim 0 [] [0x7E])) = .next t ∧ t.rxst ≠ .awaitDelim) ∧
    (∃ t, step (given (cmd 0x3) { onStream with rxst := .error }) = .next t ∧ t.rxst ≠ .error) :=
  ⟨⟨_, rfl, by decide⟩, _, rfl, by decide⟩

theorem witness_ResultWrittenOnlyByFinish :
    (∃ t, step (given (cmd 0x1) base) = .next t ∧ nextInput (given (cmd 0x1) base) ≠ .reset ∧ t.result ≠ base.result) ∧
    (∃ t, step (given (cmd 0x8) base) = .next t ∧ t.done = true ∧ base.done = false) ∧
    (∃ t, step (given (cmd 0x3) { onStream with done := true }) = .next t ∧ t.done = false) ∧
    (∃ t, base.phase = .idle ∧ exec .stuff base = .next t) :=
  ⟨⟨_, rfl, by decide, by decide⟩, ⟨_, rfl, rfl, rfl⟩, ⟨_, rfl, rfl⟩, _, rfl, rfl⟩

theorem witness_PrimitiveResultWriters :
    (∃ t, step (given (cmd 0x8) base) = .next t ∧ nextInput (given (cmd 0x8) base) ≠ .reset ∧
      t.primOut ≠ base.primOut) ∧
    (∃ t, step (given (cmd 0xA) base) = .next t ∧ t.chk ≠ base.chk) :=
  ⟨⟨_, rfl, by decide, by decide⟩, _, rfl, by decide⟩

theorem witness_LengthAndBufferWriters :
    (∃ t, step (given (cmd 0x1) onStream) = .next t ∧ nextInput (given (cmd 0x1) onStream) ≠ .reset ∧
      t.wbLen ≠ onStream.wbLen ∧ t.mem.read (0x4000 + 4 * 0) ≠ onStream.mem.read (0x4000 + 4 * 0) ∧
      0 < onStream.params.wbCap) ∧
    (∃ t, step (given .tick inSettle) = .next t ∧ t.wbLen ≠ inSettle.wbLen) ∧
    (∃ t, step (given (.busData [0xBE, 0xEF, 0x92]) (inBusRd 2 false)) = .next t ∧ t.ibLen ≠ 0 ∧
      t.mem.read (0x6000 + 4 * 1) ≠ (inBusRd 2 false).mem.read (0x6000 + 4 * 1) ∧ 1 < onBus.params.ibCap.val) ∧
    (∃ t, step (given (cmd 0x3) (body [0x00] onStream)) = .next t ∧ t.rbLen ≠ (body [0x00] onStream).rbLen) ∧
    (∃ t, step (given .rxTake (inRx .inBody 0 [] [0x11])) = .next t ∧
      BlockInv (given .rxTake (inRx .inBody 0 [] [0x11])) ∧ 0 < onStream.params.rbCap ∧
      t.mem.read (0x8000 + 4 * 0) ≠ (inRx .inBody 0 [] [0x11]).mem.read (0x8000 + 4 * 0)) := by
  refine ⟨⟨_, rfl, by decide, by decide +kernel, by decide +kernel, by decide⟩, ⟨_, rfl, by decide⟩,
    ⟨_, rfl, by decide +kernel, by decide +kernel, by decide⟩, ⟨_, rfl, by decide⟩, _, rfl, ?_, by decide, by decide⟩
  constructor <;>
    simp [given, inRx, body, onStream, base, State.reset, InWindows, Written, params, Memory.writeFrom, rxOpen]

theorem witness_RunningCommandKeepsOperands :
    ∃ t, (given .txAccept { inTx with txi := 0 }).phase ≠ .idle ∧
      nextInput (given .txAccept { inTx with txi := 0 }) ≠ .reset ∧
      step (given .txAccept { inTx with txi := 0 }) = .next t ∧ t.phase ≠ .idle ∧
      63 < inTx.params.pbCap.val ∧ 139 < inTx.params.wbCap :=
  ⟨_, by decide, by decide, rfl, by decide, by decide, by decide⟩

theorem witness_GatedWrapperResults : ResultClass.timeout ≠ .ok := by decide

end Sys2Proof.Tests
end

section
/-! PROOFS. The scope (00_scope.md): the parameters never change (R6), and no encoding overflows WB (R7). -/

namespace Sys2Proof.Machine

/-! The parameters, R6 -/

@[simp] theorem clearRej_params (v : Word) (s : State) : (clearRej v s).params = s.params := by
  unfold clearRej; split <;> rfl

@[simp] theorem writeCtrl_params (v : Word) (s : State) : (writeCtrl v s).params = s.params := by
  unfold writeCtrl
  split_ifs <;> rfl

theorem exec_params {i : Instr} {s t : State} (h : exec i s = .next t) : t.params = s.params := by
  rw [exec_frame h]

/-- The host map holds no parameter: a host write, whatever it does, leaves them. -/
theorem hostWrite_params {size : AccessSize} {off : Offset} {v : Word} {s t : State}
    (h : react (.hostWrite size off v) s = .next t) : t.params = s.params := by
  obtain ⟨-, -, rfl | ⟨-, rfl, -⟩ | ⟨-, rfl⟩ | ⟨-, -, -, rfl⟩ | ⟨-, -, i, -, hexec⟩ | ⟨-, -, rfl⟩ | ⟨-, -, rfl⟩ |
    ⟨-, -, rfl⟩ | ⟨-, -, rfl⟩ | ⟨-, -, rfl⟩ | ⟨-, j, -, -, rfl⟩⟩ := hostWrite_cases h
  case inr.inr.inr.inr.inl => exact (exec_params hexec).trans (newEpoch_params s)
  all_goals simp

/-- No answer to any input, reset included, changes a parameter. -/
theorem react_params {i : Input} {s t : State} (h : react i s = .next t) : t.params = s.params := by
  cases i with
  | hostRead size off => rw [hostRead_cases h]
  | hostWrite size off v => exact hostWrite_params h
  | txAccept => cases h; rw [txAcceptStep_frame]
  | rxArrive b => cases h; rfl
  | rxTake => cases h; rw [rxTakeStep_frame]
  | busDone status => cases h; rw [busDoneStep_frame]
  | busData d => cases h; rw [busDataStep_frame]
  | tick => cases h; rw [tickStep_frame]
  | reset => cases h; rfl

theorem step_params {s t : State} (h : step s = .next t) : t.params = s.params :=
  (react_params h).trans (takeInput_params s)

theorem tSetS_lt_tSetL (p : Params) : p.tSetS < p.tSetL := by
  unfold Params.tSetL; omega

/-- Settles O20: every input's answer keeps the parameters, and T_SET_L is T_SET_S + 1 + a natural number. -/
theorem parametersFixed : Obligations.ParametersFixed := by
  intro s t h
  exact ⟨step_params h, tSetS_lt_tSetL s.params⟩

/-! Lengths of the encodings, R7 -/

/-- ADDRESS and an empty LENGTH are no reserved value (30 R313). -/
@[simp] theorem stuff_zero : stuff 0#8 = [0#8] := rfl

/-- A frame is its stuffed body, the stuffed checksum and two delimiters (30 R310). -/
theorem streamFrame_length (body : List Byte) :
    (streamFrame body).length = (stuffAll body).length + (stuff (cks8 body)).length + 2 := by
  simp [streamFrame, stuffAll_append, stuffAll_cons, Nat.add_assoc]

/-- Form A: ADDRESS and LENGTH are 0 and never stuffed, so only the lead byte and the checksum can take two bytes. -/
theorem stuffAll_bodyA_length (lead : Byte) : (stuffAll (bodyA lead)).length = (stuff lead).length + 2 := by
  simp [bodyA, frameAddress, stuffAll_cons]

/-- Form B: ADDRESS is 0 and never stuffed; LENGTH, the lead byte, SUBC and the payload may each be. -/
theorem stuffAll_bodyB_length (lead subc : Byte) (p : List Byte) : (stuffAll (bodyB lead subc p)).length =
    1 + (stuffAll (lead :: BitVec.ofNat 8 (1 + p.length) :: subc :: p)).length := by
  change (stuffAll (0#8 :: _)).length = _
  rw [stuffAll_cons, stuff_zero, List.length_append]
  rfl

theorem streamFrame_bodyA_length (lead : Byte) :
    6 ≤ (streamFrame (bodyA lead)).length ∧ (streamFrame (bodyA lead)).length ≤ 8 := by
  have hlead := stuff_length lead
  have hcks := stuff_length (cks8 (bodyA lead))
  rw [streamFrame_length, stuffAll_bodyA_length]
  omega

theorem streamFrame_bodyB_length (lead subc : Byte) (p : List Byte) :
    7 + p.length ≤ (streamFrame (bodyB lead subc p)).length ∧
    (streamFrame (bodyB lead subc p)).length ≤ 11 + 2 * p.length := by
  have hrest := stuffAll_length (lead :: BitVec.ofNat 8 (1 + p.length) :: subc :: p)
  have hcks := stuff_length (cks8 (bodyB lead subc p))
  rw [streamFrame_length, stuffAll_bodyB_length]
  simp only [List.length_cons] at hrest
  omega

/-- Two address bytes, then three bytes for each pair (30 R315). -/
theorem busTransaction_length (a : BitVec 16) (p : List Byte) :
    (busTransaction a p).length = 2 + 3 * (p.length / 2) := by
  rw [busTransaction, List.length_append, crcPairs_length]
  rfl

/-- Settles O26: each length bound is below 12 + 2 * PB_CAP. -/
theorem encodingsFitWireBuffer : Obligations.EncodingsFitWireBuffer := by
  refine ⟨streamFrame_bodyA_length, streamFrame_bodyB_length, busTransaction_length, fun c a lead subc p hp => ?_⟩
  have hA := streamFrame_bodyA_length lead
  have hB := streamFrame_bodyB_length lead subc p
  have hbus := busTransaction_length a p
  unfold Params.wbCap
  omega

end Sys2Proof.Machine
end

section
/-! PROOFS. The state (10_state.md): XPORT is write-once (R102), and host writes while BUSY are rejected (R119). -/

namespace Sys2Proof.Machine

/-! Writes to CTRL, R102 -/

/-- Before it is written, XPORT takes 01 and 10 and no other value. -/
theorem writeCtrl_none {v : Word} {s : State} (h : s.xport = .none) : writeCtrl v s = { s with
    xport := if v.extractLsb' 0 2 = 1 then .stream else if v.extractLsb' 0 2 = 2 then .bus else .none } := by
  rw [writeCtrl, if_neg (not_not_intro h)]
  split_ifs
  · rfl
  · rfl
  · rw [← h]

theorem writeCtrl_written {v : Word} {s : State} (h : s.xport ≠ .none) : writeCtrl v s = s :=
  if_pos h

/-- A CTRL write that changes XPORT finds it unwritten and holds 01 or 10 in its low two bits. -/
theorem writeCtrl_changes_xport {v : Word} {s : State} (h : (writeCtrl v s).xport ≠ s.xport) : s.xport = .none ∧
    (v.extractLsb' 0 2 = 1 ∧ (writeCtrl v s).xport = .stream ∨
      v.extractLsb' 0 2 = 2 ∧ (writeCtrl v s).xport = .bus) := by
  by_cases hx : s.xport = .none
  · refine ⟨hx, ?_⟩
    rw [writeCtrl_none hx] at h ⊢
    dsimp only at h ⊢
    split_ifs at h ⊢ with h1 h2
    · exact .inl ⟨h1, rfl⟩
    · exact .inr ⟨h2, rfl⟩
    · exact absurd hx.symm h
  · rw [writeCtrl_written hx] at h
    exact absurd rfl h

theorem react_ctrl_idle {s : State} (v : Word) (h : s.phase = .idle) :
    react (.hostWrite .word 0x0000 v) s = .next (writeCtrl v (newEpoch s)) := by
  rw [react_write rfl]
  exact congrArg Host.Outcome.next (guarded_idle h)

/-- CTRL reads as XPORT also while BUSY: it is none of the registers that R721 leaves unspecified. -/
theorem readValue_ctrl (s : State) : readValue s 0x0000 = xportCode s.xport := by
  simp [readValue, readReg, unspecifiedBusy, regWord]

/-! Who may change XPORT -/

@[simp] theorem clearRej_xport (v : Word) (s : State) : (clearRej v s).xport = s.xport := by
  unfold clearRej; split <;> rfl

theorem exec_xport {i : Instr} {s t : State} (h : exec i s = .next t) : t.xport = s.xport := by
  rw [exec_frame h]

/-- Of the host's writes only an idle one to CTRL can change XPORT. -/
theorem hostWrite_xport {size : AccessSize} {off : Offset} {v : Word} {s t : State}
    (h : react (.hostWrite size off v) s = .next t) : t.xport = s.xport ∨
    (s.phase = .idle ∧ size = .word ∧ off = 0x0000 ∧ t = writeCtrl v (newEpoch s)) := by
  obtain ⟨hsize, -, rfl | ⟨-, rfl, -⟩ | ⟨-, rfl⟩ | ⟨-, -, -, rfl⟩ | ⟨-, -, i, -, hexec⟩ | ⟨hidle, hoff, ht⟩ |
    ⟨-, -, rfl⟩ | ⟨-, -, rfl⟩ | ⟨-, -, rfl⟩ | ⟨-, -, rfl⟩ | ⟨-, j, -, -, rfl⟩⟩ := hostWrite_cases h
  case inr.inr.inr.inr.inl => exact .inl ((exec_xport hexec).trans (newEpoch_xport s))
  case inr.inr.inr.inr.inr.inl => exact .inr ⟨hidle, hsize, hoff, ht⟩
  all_goals exact .inl (by simp)

/-- Of all inputs but reset only an idle CTRL write can change XPORT. -/
theorem react_xport {i : Input} {s t : State} (h : react i s = .next t) (hi : i ≠ .reset) : t.xport = s.xport ∨
    (s.phase = .idle ∧ ∃ v, i = .hostWrite .word 0x0000 v ∧ t = writeCtrl v (newEpoch s)) := by
  cases i with
  | hostRead size off => exact .inl (by rw [hostRead_cases h])
  | hostWrite size off v =>
    obtain hkeep | ⟨hidle, rfl, rfl, ht⟩ := hostWrite_xport h
    · exact .inl hkeep
    · exact .inr ⟨hidle, v, rfl, ht⟩
  | txAccept => cases h; exact .inl (by rw [txAcceptStep_frame])
  | rxArrive b => cases h; exact .inl rfl
  | rxTake => cases h; exact .inl (by rw [rxTakeStep_frame])
  | busDone status => cases h; exact .inl (by rw [busDoneStep_frame])
  | busData d => cases h; exact .inl (by rw [busDataStep_frame])
  | tick => cases h; exact .inl (by rw [tickStep_frame])
  | reset => exact absurd rfl hi

theorem step_changes_xport {s t : State} (h : step s = .next t) (hi : nextInput s ≠ .reset)
    (hx : t.xport ≠ s.xport) : s.xport = .none ∧ s.phase = .idle ∧ ∃ v, nextInput s = .hostWrite .word 0x0000 v ∧
      (v.extractLsb' 0 2 = 1 ∧ t.xport = .stream ∨ v.extractLsb' 0 2 = 2 ∧ t.xport = .bus) := by
  obtain hkeep | ⟨hidle, v, hin, rfl⟩ := react_xport h hi
  · exact absurd (hkeep.trans (takeInput_xport s)) hx
  · rw [← takeInput_xport s] at hx ⊢
    obtain ⟨hnone, hval⟩ := writeCtrl_changes_xport hx
    exact ⟨hnone, (takeInput_phase s).symm.trans hidle, v, hin, hval⟩

/-- Settles O9: a CTRL write by its two cases, the read by the map, and the step by who may change XPORT. -/
theorem transportWrittenOnce : Obligations.TransportWrittenOnce := by
  refine ⟨fun s v hidle hnone => ?_, fun s v hidle hwritten => ?_, fun s => ?_, rfl, ?_,
    fun s t => step_changes_xport⟩
  · rw [react_ctrl_idle v hidle, writeCtrl_none (s := newEpoch s) hnone]
    exact ⟨_, rfl⟩
  · rw [react_ctrl_idle v hidle, writeCtrl_written (s := newEpoch s) hwritten]
    exact ⟨_, rfl⟩
  · rw [react_read rfl, readValue_ctrl]
    rfl
  · rintro s t ⟨⟩
    rfl

/-! Writes while BUSY, R119 -/

theorem clearRej_eq (v : Word) (s : State) : clearRej v s = { s with rej := s.rej && !v.getLsbD 2 } := by
  unfold clearRej
  cases v.getLsbD 2 <;> simp

theorem writeCmd_busy {s : State} (v : Word) (h : s.phase ≠ .idle) : writeCmd v s = .next (reject s) :=
  if_pos (busy_eq_true.mpr h)

/-- While BUSY the six writable registers other than STATUS reject a write. -/
theorem writeTarget_reg_busy {s : State} {r : Reg} (v : Word) (h : s.phase ≠ .idle)
    (hr : r ∈ [.ctrl, .cmd, .scmd, .regAddr, .pbLen, .primIn]) : writeTarget (.reg r) v s = .next (reject s) := by
  cases r
  case cmd => exact writeCmd_busy v h
  case ctrl | scmd | regAddr | pbLen | primIn => simp only [writeTarget, writeReg, guarded_busy h]
  case status | result | wbLen | ibLen | rbLen | primOut | chk => exact absurd hr (by decide)

theorem writeTarget_pb_busy {s : State} (i : Nat) (v : Word) (h : s.phase ≠ .idle) :
    writeTarget (.byte .pb i) v s = .next (reject s) := by
  simp only [writeTarget, writeByte, guarded_busy h]

/-- The six offsets that R119 lists are those of these registers (20 R201). -/
theorem target_of_rejecting_offset (p : Params) {off : Offset}
    (h : off ∈ [0x0000#16, 0x0008#16, 0x0010#16, 0x0014#16, 0x0018#16, 0x0028#16]) : off.toNat % 4 = 0 ∧
    ∃ r ∈ [Reg.ctrl, .cmd, .scmd, .regAddr, .pbLen, .primIn], target p off = .reg r := by
  simp only [List.mem_cons, List.not_mem_nil, or_false] at h
  obtain rfl | rfl | rfl | rfl | rfl | rfl := h
  · exact ⟨rfl, .ctrl, by decide, rfl⟩
  · exact ⟨rfl, .cmd, by decide, rfl⟩
  · exact ⟨rfl, .scmd, by decide, rfl⟩
  · exact ⟨rfl, .regAddr, by decide, rfl⟩
  · exact ⟨rfl, .pbLen, by decide, rfl⟩
  · exact ⟨rfl, .primIn, by decide, rfl⟩

theorem react_reg_busy {s : State} {off : Offset} (v : Word) (h : s.phase ≠ .idle)
    (hoff : off ∈ [0x0000#16, 0x0008#16, 0x0010#16, 0x0014#16, 0x0018#16, 0x0028#16]) :
    react (.hostWrite .word off v) s = .next (reject (newEpoch s)) := by
  obtain ⟨h4, r, hr, ht⟩ := target_of_rejecting_offset s.params hoff
  rw [react_write h4, ht]
  exact writeTarget_reg_busy v h hr

theorem react_pb_busy {s : State} {off : Offset} {i : Nat} (v : Word) (h : s.phase ≠ .idle)
    (hi : i < s.params.pbCap.val) (hoff : off.toNat = Buf.pb.addr i) :
    react (.hostWrite .word off v) s = .next (reject (newEpoch s)) := by
  have h4 : off.toNat % 4 = 0 := by rw [hoff]; simp only [Buf.addr, Buf.base]; omega
  rw [react_write h4, target_byte (b := .pb) hi hoff]
  exact writeTarget_pb_busy i v h

/-- A STATUS write acts the same in every phase: it only clears REJ, by its bit 2 (R103). -/
theorem react_status_write (s : State) (v : Word) : react (.hostWrite .word 0x0004 v) s =
    .next { newEpoch s with rej := s.rej && !v.getLsbD 2 } := by
  rw [react_write rfl]
  exact congrArg Host.Outcome.next (clearRej_eq v (newEpoch s))

/-- Settles O10: the listed registers and the PB bytes reject the write, STATUS does not ask BUSY. -/
theorem busyWritesRejected : Obligations.BusyWritesRejected := by
  intro s off v hbusy
  refine ⟨?_, s.epoch + 1, react_status_write s v⟩
  rintro (hreg | ⟨i, hi, hpb⟩)
  · exact ⟨s.epoch + 1, react_reg_busy v hbusy hreg⟩
  · exact ⟨s.epoch + 1, react_pb_busy v hbusy hi hpb⟩

end Sys2Proof.Machine
end

section
/-! PROOFS. The host map (20_memory.md): what stands at no register and in no buffer reads 0 and ignores writes (R202),
and only an unsupported host access is refused (R203). -/

namespace Sys2Proof.Machine

/-! Unmapped offsets, R202 -/

/-- The ranges that R202 lists: the holes of the map, and each window's indices at or above the capacity. -/
theorem target_unmapped {p : Params} {off : Offset}
    (h : (0x0034 ≤ off.toNat ∧ off.toNat < 0x2000) ∨
      (∃ i, off.toNat = 0x2000 + 4 * i ∧ p.pbCap.val ≤ i ∧ i < 2048) ∨
      (∃ i, off.toNat = 0x4000 + 4 * i ∧ p.wbCap ≤ i ∧ i < 2048) ∨
      (∃ i, off.toNat = 0x6000 + 4 * i ∧ p.ibCap.val ≤ i ∧ i < 2048) ∨
      (∃ i, off.toNat = 0x8000 + 4 * i ∧ p.rbCap ≤ i ∧ i < 2048) ∨
      0xA000 ≤ off.toNat) : target p off = .unmapped := by
  obtain ⟨hlow, hhigh⟩ | ⟨i, hoff, hcap, hi⟩ | ⟨i, hoff, hcap, hi⟩ | ⟨i, hoff, hcap, hi⟩ | ⟨i, hoff, hcap, hi⟩ |
    habove := h
  · exact target_hole hlow (.inl hhigh)
  · exact target_beyond (b := .pb) hcap hi hoff
  · exact target_beyond (b := .wb) hcap hi hoff
  · exact target_beyond (b := .ib) hcap hi hoff
  · exact target_beyond (b := .rb) hcap hi hoff
  · exact target_hole (by omega) (.inr habove)

theorem readValue_unmapped {s : State} {off : Offset} (h : target s.params off = .unmapped) :
    readValue s off = 0 := by
  rw [readValue, h]

/-- Settles O6: the map answers `unmapped` on every listed range, and it is asked before BUSY. -/
theorem unmappedReadsZeroIgnoresWrites : Obligations.UnmappedReadsZeroIgnoresWrites := by
  intro s off v h4 hoff
  have htarget := target_unmapped hoff
  constructor
  · rw [react_read h4, readValue_unmapped htarget]
  · rw [react_write h4, htarget]
    exact ⟨s.epoch + 1, rfl⟩

/-! Refusals, R203 -/

theorem supported_eq_false {size : AccessSize} {off : Offset} :
    supported size off = false ↔ size ≠ .word ∨ off.toNat % 4 ≠ 0 := by
  simp only [supported, Bool.and_eq_false_iff, decide_eq_false_iff_not, ne_eq]

/-- Every command has a meaning: it goes on, or it faults. -/
theorem exec_ne_refused (i : Instr) (s : State) (r : Refusal) : exec i s ≠ .refused r := by
  cases i <;> simp only [exec, execSEncode, execSSend, execSRecv, execBEncode, execBSend, execBRecv, execStuff,
    execUnstuff, execCksum, execCrc8]
  all_goals (repeat' split)
  all_goals exact nofun

theorem writeCmd_ne_refused (v : Word) (s : State) (r : Refusal) : writeCmd v s ≠ .refused r := by
  unfold writeCmd
  split
  · exact nofun
  · split
    · exact nofun
    · exact exec_ne_refused _ s r

/-- Once a host write is supported, whatever stands at its offset answers it. -/
theorem writeTarget_ne_refused (t : Target) (v : Word) (s : State) (r : Refusal) :
    writeTarget t v s ≠ .refused r := by
  unfold writeTarget
  split
  · exact writeCmd_ne_refused v s r
  all_goals exact nofun

theorem hostRead_refused {size : AccessSize} {off : Offset} {s : State} :
    (∃ r, hostRead size off s = .refused r) ↔ supported size off = false := by
  unfold hostRead
  cases supported size off with
  | true => exact ⟨nofun, nofun⟩
  | false => exact ⟨fun _ => rfl, fun _ => ⟨_, rfl⟩⟩

theorem hostWrite_refused {size : AccessSize} {off : Offset} {v : Word} {s : State} :
    (∃ r, hostWrite size off v s = .refused r) ↔ supported size off = false := by
  unfold hostWrite
  cases supported size off with
  | true => exact ⟨fun ⟨r, h⟩ => absurd h (writeTarget_ne_refused _ v _ r), nofun⟩
  | false => exact ⟨fun _ => rfl, fun _ => ⟨_, rfl⟩⟩

/-- Of all inputs only a host access can be refused, and only one that is not supported. -/
theorem react_refused {i : Input} {s : State} : (∃ r, react i s = .refused r) ↔
    ∃ size off, supported size off = false ∧ (i = .hostRead size off ∨ ∃ v, i = .hostWrite size off v) := by
  cases i with
  | hostRead size off =>
    exact hostRead_refused.trans ⟨fun h => ⟨size, off, h, .inl rfl⟩, fun | ⟨_, _, h, .inl rfl⟩ => h⟩
  | hostWrite size off v =>
    exact hostWrite_refused.trans ⟨fun h => ⟨size, off, h, .inr ⟨v, rfl⟩⟩, fun | ⟨_, _, h, .inr ⟨_, rfl⟩⟩ => h⟩
  | txAccept | rxArrive | rxTake | busDone | busData | tick | reset =>
    exact ⟨nofun, nofun⟩

/-- Settles O52: a step is the reaction to its next input, so it is refused exactly where that reaction is. -/
theorem refusalIsUnsupportedAccess : Obligations.RefusalIsUnsupportedAccess := by
  intro s
  simp only [step, react_refused, supported_eq_false]

end Sys2Proof.Machine
end

section
/-! PROOFS. The encoding and the commands' checks (30_encoding.md): which words are well formed (R323), the checks that
end in PARAM (R321, R322), and the frame that S_ENCODE builds (R310, R312). -/

namespace Sys2Proof.Machine

/-! Well-formed words, R323 -/

theorem onlyUsed_ok {bad : Bool} {j : Instr} : (∃ i, onlyUsed bad j = .ok i) ↔ bad = false := by
  cases bad with
  | true => exact ⟨nofun, nofun⟩
  | false => exact ⟨fun _ => rfl, fun _ => ⟨j, rfl⟩⟩

/-- The three checks of R323 as one conjunction, an unused field's check read as "1 only for these OPs". -/
theorem wellFormed_iff (f : CmdFields) : f.wellFormed = true ↔
    f.op ∈ [0x1#4, 0x2#4, 0x3#4, 0x5#4, 0x6#4, 0x7#4, 0x8#4, 0x9#4, 0xA#4, 0xB#4] ∧ f.reserved = 0 ∧
    (f.long = true → f.op = 0x2#4 ∨ f.op = 0x6#4) ∧ (f.sub = true → f.op = 0x1#4) ∧
    (f.trunc = true → f.op = 0x7#4) ∧ (f.n ≠ 0 → f.op = 0x3#4 ∨ f.op = 0x7#4) := by
  simp only [CmdFields.wellFormed, CmdFields.opDefined, CmdFields.reservedZero, CmdFields.unusedZero,
    Bool.and_eq_true, Bool.or_eq_true, Bool.not_eq_true', decide_eq_true_eq, List.mem_cons, List.not_mem_nil,
    or_false, and_assoc, ← Bool.not_eq_true, ← imp_iff_not_or, ne_eq, ← or_iff_not_imp_left]

/-- The decoder takes exactly the well-formed fields: its chain of OP tests is the table of R301 and R302. -/
theorem decodeFields_ok (f : CmdFields) : (∃ i, decodeFields f = .ok i) ↔ f.wellFormed = true := by
  obtain ⟨op, long, sub, trunc, reserved, n⟩ := f
  rw [wellFormed_iff]
  by_cases hres : reserved = 0#9
  case neg => simp [decodeFields, hres]
  subst reserved
  by_cases hop : op ∈ [0x1#4, 0x2#4, 0x3#4, 0x5#4, 0x6#4, 0x7#4, 0x8#4, 0x9#4, 0xA#4, 0xB#4]
  case neg =>
    simp only [List.mem_cons, List.not_mem_nil, or_false, not_or] at hop
    simp [decodeFields, hop]
  simp only [List.mem_cons, List.not_mem_nil, or_false] at hop
  obtain rfl | rfl | rfl | rfl | rfl | rfl | rfl | rfl | rfl | rfl := hop <;>
    simp [decodeFields, onlyUsed_ok, and_assoc]

theorem decode_ok (v : Word) : (∃ i, decode v = .ok i) ↔ (cmdFields v).wellFormed = true :=
  decodeFields_ok (cmdFields v)

/-! PARAM, R323 -/

theorem finish_param_eq_paramOnly {s : State} (h : s.phase = .idle) : finish .param (accept s) = paramOnly s :=
  finish_param h

theorem writeCmd_error {s : State} {v : Word} (hidle : s.phase = .idle) (hv : ¬ ∃ i, decode v = .ok i) :
    writeCmd v s = .next (paramOnly s) := by
  unfold writeCmd
  rw [busy_eq_false.mpr hidle, ← finish_param_eq_paramOnly hidle]
  cases hdec : decode v with
  | error e => rfl
  | ok i => exact absurd ⟨i, hdec⟩ hv

/-- What an accepted command can answer: PARAM from one of its checks, a run that goes on with DONE = 0, an end with
another class, or the fault. -/
inductive CommandAnswer (s : State) : Answer → Prop
  | param : CommandAnswer s (.next (finish .param (accept s)))
  | runs {t : State} (hdone : t.done = false) : CommandAnswer s (.next t)
  | ends {c : ResultClass} {t : State} (hclass : c ≠ .param) : CommandAnswer s (.next (finish c t))
  | faults (r : Fault) : CommandAnswer s (.fault r)

/-- A check that ends in PARAM may stand before any answer. -/
theorem CommandAnswer.check {s : State} {a : Answer} {p : Prop} [Decidable p] (h : CommandAnswer s a) :
    CommandAnswer s (if p then .next (finish .param (accept s)) else a) := by
  split
  · exact .param
  · exact h

/-- Where a command reads PB, a missing payload is the fault (70 R704), and the command ends with its class. -/
theorem CommandAnswer.readsPayload {s : State} {c : ResultClass} {t : List Byte → State} (hclass : c ≠ .param) :
    CommandAnswer s (match payload s with
      | none => .fault .unwrittenPayload
      | some p => .next (finish c (t p))) := by
  split
  · exact .faults _
  · exact .ends hclass

theorem execSEncode_answer (sub : Bool) (s : State) : CommandAnswer s (execSEncode sub s) := by
  refine .check (.check ?_)
  split
  · exact .check (.ends nofun)
  · exact .check (.readsPayload nofun)

/-- UNSTUFF ends with OK or PROTOCOL (42 R501). -/
theorem unstuffResult_ne_param (b0 b1 : Byte) : (unstuffResult b0 b1).1 ≠ .param := by
  unfold unstuffResult
  repeat' split
  all_goals exact nofun

theorem exec_answer (i : Instr) (s : State) : CommandAnswer s (exec i s) := by
  cases i with
  | sEncode sub => exact execSEncode_answer sub s
  | bEncode => exact .check (.check (.check (.readsPayload nofun)))
  | sSend | sRecv | bSend | bRecv => exact .check (.check (.runs rfl))
  | stuff => exact .ends nofun
  | unstuff => exact .ends (unstuffResult_ne_param _ _)
  | cksum | crc8 => exact .check (.readsPayload nofun)

/-- A command that has ended with PARAM has ended by a check, before it wrote anything. -/
theorem exec_eq_finish_param {i : Instr} {s t : State} (h : exec i s = .next t) (hdone : t.done = true)
    (hclass : t.result.cls = .param) : t = finish .param (accept s) := by
  have hanswer := exec_answer i s
  rw [h] at hanswer
  cases hanswer with
  | param => rfl
  | runs hrun => exact absurd (hdone.symm.trans hrun) nofun
  | ends hother => exact absurd hclass hother

/-- Settles O4: the decoder accepts the well-formed words, any other word ends with PARAM at acceptance, and a command
ends with PARAM only by a check. -/
theorem paramWritesOnlyResultAndDone : Obligations.ParamWritesOnlyResultAndDone := by
  refine ⟨fun v => (decode_ok v).trans (wellFormed_iff (cmdFields v)), fun s v hidle hv => ?_,
    fun s t i hidle h hdone hclass => ?_⟩
  · rw [react_cmd, writeCmd_error (s := newEpoch s) hidle hv]
    exact ⟨s.epoch + 1, rfl⟩
  · rw [exec_eq_finish_param h hdone hclass, finish_param_eq_paramOnly hidle]

/-! The transport, R321 -/

/-- Of the block's state CKSUM and CRC8 read PB and PB_LEN, STUFF and UNSTUFF read PRIM_IN; none reads XPORT. -/
theorem exec_primitive_xport {s t : State} {i : Instr} (x : Transport) (hi : i ∈ [.stuff, .unstuff, .cksum, .crc8])
    (h : exec i s = .next t) : exec i { s with xport := x } = .next { t with xport := x } := by
  have hcap : payloadTooLong { s with xport := x } = payloadTooLong s := rfl
  have hpay : payload { s with xport := x } = payload s := rfl
  simp only [List.mem_cons, List.not_mem_nil, or_false] at hi
  obtain rfl | rfl | rfl | rfl := hi
  case inl | inr.inl => cases h; rfl
  all_goals
    simp only [exec, execCksum, execCrc8, hcap, hpay] at h ⊢
    split_ifs at h ⊢
    · cases h; rfl
    · split at h <;> cases h
      rfl

/-- Settles O21: XPORT is each codec command's first check, and no operand of a primitive. -/
theorem transportMustMatch : Obligations.TransportMustMatch := by
  refine ⟨fun s b n hidle hx => ?_, fun s b n hidle hx => ?_, fun s t x i => exec_primitive_xport x⟩
  all_goals
    rw [← finish_param_eq_paramOnly hidle]
    exact ⟨if_pos hx, if_pos hx, if_pos hx⟩

/-! The capacities, R322 -/

theorem payloadTooLong_eq_true {s : State} : payloadTooLong s = true ↔ s.params.pbCap.val < s.pbLen.toNat :=
  decide_eq_true_iff

theorem payloadTooLong_eq_false {s : State} : payloadTooLong s = false ↔ s.pbLen.toNat ≤ s.params.pbCap.val :=
  decide_eq_false_iff_not.trans not_lt

theorem countTooLong_eq_true {n : Count} {s : State} : countTooLong n s = true ↔ s.params.ibCap.val < n.toNat :=
  decide_eq_true_iff

/-- Settles O22: whatever the check of XPORT before it answers, it answers PARAM too. -/
theorem oversizeIsParam : Obligations.OversizeIsParam := by
  intro s b n hidle
  rw [← finish_param_eq_paramOnly hidle]
  constructor
  · intro hlen
    simp only [exec, execSEncode, execBEncode, execCksum, execCrc8, payloadTooLong_eq_true.mpr hlen, if_true, ite_self,
      and_self]
  · intro hn
    simp only [exec, execSRecv, execBRecv, countTooLong_eq_true.mpr hn, if_true, ite_self, and_self]

/-! The frame that S_ENCODE builds, R310 -/

theorem finishEncoded_wbLen {l : List Byte} (s : State) (h : l.length < 2 ^ 16) :
    (finishEncoded l s).wbLen.toNat = l.length :=
  (BitVec.toNat_ofNat _ _).trans (Nat.mod_eq_of_lt h)

/-- An encode of an idle block writes WB, WB_LEN, RESULT, DONE and the latch only. -/
theorem finishEncoded_frame {s : State} (l : List Byte) (op : BitVec 4) (h : s.phase = .idle) :
    finishEncoded l (latchFields op false false 0 (accept s)) = { s with
      mem := (finishEncoded l (latchFields op false false 0 (accept s))).mem
      wbLen := (finishEncoded l (latchFields op false false 0 (accept s))).wbLen
      result := plainResult .ok, done := true, latch := { op := op, long := false, trunc := false, n := 0 } } := by
  cases s; subst h; rfl

/-- The body of S_ENCODE's frame, by its form (R310). -/
def encodedBody (sub : Bool) (s : State) (p : List Byte) : List Byte :=
  if sub then bodyB s.lead s.subc p else bodyA s.lead

/-- Form A needs an empty payload, which is never longer than PB_CAP (40 R410). -/
theorem execSEncode_formA {s : State} (hx : s.xport = .stream) (hlen : s.pbLen = 0) : execSEncode false s =
    .next (finishEncoded (streamFrame (bodyA s.lead)) (latchFields 0x1 false false 0 (accept s))) := by
  have hcap : payloadTooLong s = false := payloadTooLong_eq_false.mpr (by simp [hlen])
  simp [execSEncode, hx, hlen, hcap]

/-- Form B needs LENGTH = 1 + P to fit its byte (40 R410, 30 R311). -/
theorem execSEncode_formB {s : State} {p : List Byte} (hx : s.xport = .stream) (hcap : payloadTooLong s = false)
    (hmax : s.pbLen.toNat ≤ 254) (hp : payload s = some p) : execSEncode true s =
    .next (finishEncoded (streamFrame (bodyB s.lead s.subc p)) (latchFields 0x1 false false 0 (accept s))) := by
  have hfits : ¬ 255 < 1 + s.pbLen.toNat := by omega
  simp [execSEncode, hx, hcap, hp, hfits]

theorem execSEncode_completes {s : State} {sub : Bool} {p : List Byte} (hx : s.xport = .stream)
    (hcap : s.pbLen.toNat ≤ s.params.pbCap.val) (hlen : s.pbLen.toNat = p.length) (hp : payload s = some p)
    (hform : sub = false → p = []) (hmax : p.length ≤ 254) : execSEncode sub s =
    .next (finishEncoded (streamFrame (encodedBody sub s p)) (latchFields 0x1 false false 0 (accept s))) := by
  cases sub with
  | false =>
    have h0 : s.pbLen = 0 := BitVec.eq_of_toNat_eq (by rw [hlen, hform rfl]; rfl)
    exact execSEncode_formA hx h0
  | true => exact execSEncode_formB hx (payloadTooLong_eq_false.mpr hcap) (hlen ▸ hmax) hp

theorem streamFrame_encodedBody_length {sub : Bool} {s : State} {p : List Byte} (hmax : p.length ≤ 254) :
    (streamFrame (encodedBody sub s p)).length < 2 ^ 16 := by
  have hA := streamFrame_bodyA_length s.lead
  have hB := streamFrame_bodyB_length s.lead s.subc p
  unfold encodedBody
  split <;> omega

/-- Settles O24: S_ENCODE passes its checks, and its end stores the frame, which fits WB_LEN, into WB. -/
theorem sEncodeBuildsFrame : Obligations.SEncodeBuildsFrame := by
  intro s sub p hidle hx hcap hlen hpb hform hmax
  refine ⟨_, encodedBody sub s p, streamFrame (encodedBody sub s p),
    execSEncode_completes hx hcap hlen (payload_some hlen hpb) hform hmax, rfl, rfl,
    finishEncoded_wbLen _ (streamFrame_encodedBody_length hmax), fun k hk => ?_, fun a ha => ?_,
    finishEncoded_frame _ _ hidle⟩
  · exact read_storeAll _ .wb _ hk
  · exact read_storeAll_other _ .wb _ ha

end Sys2Proof.Machine
end

section
/-! PROOFS. The stream codec (40_stream_codec.md): stuffing (R403), the TX step of a send (R414), and the reassembly
(R422 to R425), the validation (R430 to R436) and the timeout (R428) of a receive. -/

namespace Sys2Proof.Machine

/-! Stuffing and the reassembly machine, R403, R422 to R425 -/

theorem isReserved_eq_true {b : Byte} : isReserved b = true ↔ b ∈ [0x11#8, 0x13#8, 0x7D#8, 0x7E#8] := by
  simp [isReserved, or_assoc]

theorem stuff_reserved {b : Byte} (h : b ∈ [0x11#8, 0x13#8, 0x7D#8, 0x7E#8]) : stuff b = [0x7D, b ^^^ 0x20] :=
  if_pos (isReserved_eq_true.mpr h)

theorem stuff_unreserved {b : Byte} (h : b ∉ [0x11#8, 0x13#8, 0x7D#8, 0x7E#8]) : stuff b = [b] :=
  if_neg (mt isReserved_eq_true.mp h)

theorem unescape_valid {c : Byte} (h : c ∈ [0x31#8, 0x33#8, 0x5D#8, 0x5E#8]) : unescape c = some (c ^^^ 0x20) :=
  if_pos (by simpa [or_assoc] using h)

theorem unescape_bad {c : Byte} (h : c ∉ [0x31#8, 0x33#8, 0x5D#8, 0x5E#8]) : unescape c = none :=
  if_neg (by simpa [and_assoc] using h)

/-- Escaping toggles bit 5 (R400), and so does unescaping (R401). -/
theorem unescape_escaped {b : Byte} (h : b ∈ [0x11#8, 0x13#8, 0x7D#8, 0x7E#8]) :
    unescape (b ^^^ 0x20) = some b := by
  simp only [List.mem_cons, List.not_mem_nil, or_false] at h
  obtain rfl | rfl | rfl | rfl := h <;> rfl

theorem rxByte_awaitDelim {s : State} (b : Byte) (h : s.rxst = .awaitDelim) :
    rxByte b s = if b = delim then { s with rxst := .inBody } else failReceive .protocol s := by
  rw [rxByte, h]

theorem rxByte_inBody {s : State} (b : Byte) (h : s.rxst = .inBody) : rxByte b s =
    if b = delim then validate { s with rxst := .done }
    else if b = esc then { s with rxst := .escape } else storeBody b s := by
  rw [rxByte, h]

theorem rxByte_escape_valid {s : State} {b x : Byte} (h : s.rxst = .escape) (hb : unescape b = some x) :
    rxByte b s = storeBody x s := by
  simp only [rxByte, h, hb]

theorem rxByte_escape_bad {s : State} {b : Byte} (h : s.rxst = .escape) (hb : unescape b = none) :
    rxByte b s = failReceive .protocol s := by
  simp only [rxByte, h, hb]

theorem rxByte_inBody_plain {s : State} {b : Byte} (h : s.rxst = .inBody) (hdelim : b ≠ 0x7E) (hesc : b ≠ 0x7D) :
    rxByte b s = storeBody b s :=
  (rxByte_inBody b h).trans ((if_neg hdelim).trans (if_neg hesc))

/-- Settles O48: a reserved byte by its escape pair, any other byte by the third transition of IN_BODY. -/
theorem stuffUnstuffRoundTrip : Obligations.StuffUnstuffRoundTrip := by
  refine ⟨fun b hb => ⟨stuff_reserved hb, unescape_escaped hb⟩, fun b hb => ⟨stuff_unreserved hb, fun s hs => ?_⟩,
    fun v hv => ⟨v, unescape_escaped hv, stuff_reserved hv⟩⟩
  simp only [List.mem_cons, List.not_mem_nil, or_false, not_or] at hb
  obtain ⟨-, -, hesc, hdelim⟩ := hb
  exact rxByte_inBody_plain hs hdelim hesc

/-- Settles O35: each state's transition, the escape by whether the byte unescapes, and the store by the room in RB. -/
theorem reassemblyTransitions : Obligations.ReassemblyTransitions := by
  intro s b x
  refine ⟨rxByte_awaitDelim b, fun hs hb => ?_, fun hs hb => ?_, rxByte_inBody_plain,
    fun hs hb => rxByte_escape_valid hs (unescape_valid hb), fun hs hb => rxByte_escape_bad hs (unescape_bad hb),
    fun hfull => if_pos hfull, fun hroom => if_neg hroom, rfl⟩
  · rw [rxByte_inBody b hs, if_pos (show b = delim from hb)]
  · subst hb
    rw [rxByte_inBody _ hs]
    rfl

/-! Validation, R430 to R436 -/

theorem bytesFrom_getElem {s : State} {b : Buf} {i n k : Nat} (h : k < (bytesFrom s b i n).length) :
    (bytesFrom s b i n)[k] = byteOf s b (i + k) := by
  simp [bytesFrom]

theorem bytesFrom_getD {s : State} {b : Buf} {i n k : Nat} (h : k < n) (d : Byte) :
    (bytesFrom s b i n).getD k d = byteOf s b (i + k) := by
  rw [List.getD_eq_getElem _ _ (by rwa [bytesFrom_length]), bytesFrom_getElem]

theorem bytesFrom_take {s : State} {b : Buf} {i n k : Nat} (h : k ≤ n) :
    (bytesFrom s b i n).take k = bytesFrom s b i k := by
  rw [bytesFrom, ← List.map_take, List.take_range, Nat.min_eq_left h]
  rfl

theorem bytesFrom_drop (s : State) (b : Buf) (i n k : Nat) :
    (bytesFrom s b i n).drop k = bytesFrom s b (i + k) (n - k) := by
  apply List.ext_getElem
  · simp
  · intro j h1 h2
    simp [bytesFrom, Nat.add_assoc]

theorem validate_short {s : State} (h : s.rbLen.toNat < 3) : validate s = finishEmpty .protocol s :=
  if_pos (by rwa [rawBody, bytesFrom_length])

/-- The checks of a body that is no short frame, in the bytes of RB that they read; the payload is RB[4..m-2]. -/
theorem validate_eq {s : State} {m : Nat} (hm : s.rbLen.toNat = m) (h3 : 3 ≤ m) : validate s =
    if cks8 (bytesFrom s .rb 0 (m - 1)) ≠ byteOf s .rb (m - 1) then finishEmpty .protocol s
    else if byteOf s .rb 2 ≠ 0 then finishDevice (byteOf s .rb 2) { s with ibLen := 0 }
    else if 5 ≤ m ∧ (byteOf s .rb 3).toNat ≠ m - 5 then finishEmpty .dataLen s
    else if m - 5 ≠ s.latch.n.toNat then finishEmpty .dataLen s
    else finishReceived (bytesFrom s .rb 4 (m - 5)) s := by
  have hbody : rawBody s = bytesFrom s .rb 0 m := by rw [rawBody, hm]
  have hbyte : ∀ k, k < m → (rawBody s).getD k 0 = byteOf s .rb k := fun k hk => by
    rw [hbody, bytesFrom_getD hk, Nat.zero_add]
  have hlength : (5 ≤ m ∧ ((rawBody s).getD 3 0).toNat ≠ m - 5) ↔ (5 ≤ m ∧ (byteOf s .rb 3).toNat ≠ m - 5) :=
    and_congr_right fun h5 => by rw [hbyte 3 (by omega)]
  have hcovered : (rawBody s).take (m - 1) = bytesFrom s .rb 0 (m - 1) := by
    rw [hbody, bytesFrom_take (by omega)]
  have hpayload : ((rawBody s).drop 4).take (m - 5) = bytesFrom s .rb 4 (m - 5) := by
    rw [hbody, bytesFrom_drop, bytesFrom_take (by omega)]
  have hlen : (rawBody s).length = m := by rw [hbody, bytesFrom_length]
  have hnotShort : ¬ m < 3 := by omega
  simp only [validate, hlen, hnotShort, if_false, hcovered, hbyte (m - 1) (by omega), hbyte 2 (by omega), hlength,
    hpayload]

/-- Settles O36: the checks are taken in their order, and the payload is stored at the start of IB. -/
theorem validationChecksInOrder : Obligations.ValidationChecksInOrder := by
  intro s m p hm hp
  have hp : m - 5 = p := by rw [hp]; split <;> omega
  refine ⟨fun hshort => validate_short (hm ▸ hshort), fun h3 hsum => ?_, fun h3 hsum =>
    ⟨fun hstatus => ?_, fun hstatus => ⟨fun h5 hlen => ?_, fun hlen hexp => ?_, fun hlen hexp => ?_⟩⟩⟩
  all_goals rw [validate_eq hm h3]
  · exact if_pos hsum
  all_goals rw [if_neg (not_not_intro hsum)]
  · exact if_pos hstatus
  all_goals rw [if_neg (not_not_intro hstatus)]
  · exact if_pos ⟨h5, hlen⟩
  all_goals rw [if_neg (fun h => h.2 (hlen h.1)), hp]
  · exact if_pos hexp
  rw [if_neg (not_not_intro hexp)]
  have hplen : (bytesFrom s .rb 4 p).length = p := bytesFrom_length s .rb 4 p
  refine ⟨_, rfl, ?_, fun k hk => ?_, fun a ha => ?_⟩
  · rw [finishReceived, hplen]
    rfl
  · rw [← bytesFrom_getElem (by rwa [hplen])]
    exact read_storeAll s .ib _ _
  · exact read_storeAll_other s .ib _ (by rwa [hplen])

/-! The receive timeout, R428 -/

theorem rxOpen_eq_true {s : State} :
    rxOpen s = true ↔ s.rxst = .awaitDelim ∨ s.rxst = .inBody ∨ s.rxst = .escape := by
  unfold rxOpen
  cases s.rxst <;> decide

theorem execSRecv_tmr {s t : State} {n : Count} (h : execSRecv n s = .next t) (hphase : t.phase = .rx) :
    t.tmr = 0 := by
  unfold execSRecv at h
  split_ifs at h <;> cases h
  · exact absurd hphase nofun
  · exact absurd hphase nofun
  · rfl

theorem tickStep_rx {s : State} (h : s.phase = .rx) : tickStep s = rxTick (newEpoch s) := by
  rw [tickStep, h]

/-- A Tick in RX that leaves TMR at most T_RX only counts. -/
theorem tickStep_rx_counts {s : State} (h : s.phase = .rx) (htmr : s.tmr + 1 ≤ s.params.tRx) :
    tickStep s = { s with tmr := s.tmr + 1, epoch := s.epoch + 1 } :=
  (tickStep_rx h).trans (if_neg fun hlate => absurd hlate.1 (Nat.not_lt.mpr htmr))

/-- With the machine open, the Tick that makes TMR > T_RX fails with TIMEOUT. -/
theorem tickStep_rx_timeout {s : State} (h : s.phase = .rx) (hopen : rxOpen s = true)
    (htmr : s.params.tRx < s.tmr + 1) :
    tickStep s = failReceive .timeout { s with tmr := s.tmr + 1, epoch := s.epoch + 1 } :=
  (tickStep_rx h).trans (if_pos ⟨htmr, hopen⟩)

theorem tickStep_iterate_rx {s : State} {k : Nat} (h : s.phase = .rx) (hk : s.tmr + k ≤ s.params.tRx) :
    tickStep^[k] s = { s with tmr := s.tmr + k, epoch := s.epoch + k } := by
  induction k with
  | zero => rfl
  | succ k ih =>
    rw [Function.iterate_succ_apply', ih (by omega)]
    exact tickStep_rx_counts h hk

theorem rxTakeStep_rxQueue {s : State} {b : Byte} {q : List Byte} (h : s.phase = .rx) (hopen : rxOpen s = true)
    (hq : s.rxQueue = b :: q) : (rxTakeStep s).rxQueue = q := by
  have htake : rxTakeStep s = rxByte b { newEpoch s with rxQueue := q } := by
    rw [rxTakeStep, hq]
    exact if_pos ⟨h, hopen⟩
  rw [htake, rxByte_frame]

/-- Settles O37: T_RX - TMR Ticks count up to T_RX with the machine open, and the next one times out. -/
theorem receiveTimesOut : Obligations.ReceiveTimesOut := by
  refine ⟨fun s t n => execSRecv_tmr, fun s hphase hrxst htmr => ?_⟩
  have hopen : rxOpen s = true := rxOpen_eq_true.mpr hrxst
  refine ⟨fun k hk => ?_, ?_⟩
  · rw [tickStep_iterate_rx hphase (by omega)]
    exact ⟨⟨_, rfl⟩, fun b q hq => rxTakeStep_rxQueue hphase hopen hq⟩
  · have hsum : s.tmr + (s.params.tRx - s.tmr) = s.params.tRx := by omega
    rw [Nat.sub_add_comm htmr, Function.iterate_succ_apply', tickStep_iterate_rx hphase (by omega), hsum]
    exact ⟨_, tickStep_rx_timeout hphase hopen (Nat.lt_succ_self _)⟩

/-! The TX step, R414 -/

/-- The transport's record and TXI after the offered byte is accepted, before the end of the frame is asked. -/
def takeOffered (s : State) : State :=
  { newEpoch s with txWire := s.txWire ++ [byteOf s .wb s.txi], txi := s.txi + 1 }

theorem txAcceptStep_tx {s : State} (h : s.phase = .tx) : txAcceptStep s =
    if s.txi + 1 = s.wbLen.toNat then enterSettle (takeOffered s) else takeOffered s :=
  if_pos h

/-- An accept takes the offered byte, whether or not it ends the frame. -/
theorem txAcceptStep_takes {s : State} (h : s.phase = .tx) :
    (txAcceptStep s).txi = s.txi + 1 ∧ (txAcceptStep s).txWire = s.txWire ++ [byteOf s .wb s.txi] := by
  rw [txAcceptStep_tx h]
  split
  · rw [enterSettle_frame]; exact ⟨rfl, rfl⟩
  · exact ⟨rfl, rfl⟩

theorem tickStep_tx {s : State} (h : s.phase = .tx) : tickStep s = s := by
  rw [tickStep, h]

/-- While BUSY a host write is ignored, rejected, or clears REJ (10 R119). -/
theorem hostWrite_busy {size : AccessSize} {off : Offset} {v : Word} {s t : State} (hbusy : s.phase ≠ .idle)
    (h : react (.hostWrite size off v) s = .next t) : t = { s with epoch := s.epoch + 1, rej := t.rej } := by
  obtain ⟨-, -, rfl | ⟨-, rfl, -⟩ | ⟨-, rfl⟩ | ⟨-, hidle, -⟩ | ⟨-, hidle, -⟩ | ⟨hidle, -⟩ | ⟨hidle, -⟩ |
    ⟨hidle, -⟩ | ⟨hidle, -⟩ | ⟨hidle, -⟩ | ⟨hidle, -⟩⟩ := hostWrite_cases h
  case inl | inr.inl => rfl
  case inr.inr.inl => rw [clearRej_eq]; rfl
  all_goals exact absurd hidle hbusy

theorem rxTakeStep_not_rx {s : State} (h : s.phase ≠ .rx) : rxTakeStep s = s := by
  unfold rxTakeStep
  split
  · rfl
  · exact if_neg fun hrx => h hrx.1

theorem busDoneStep_not_busWr {s : State} (status : Byte) (h : s.phase ≠ .busWr) : busDoneStep status s = s :=
  if_neg h

theorem busDataStep_not_busRd {s : State} (d : List Byte) (h : s.phase ≠ .busRd) : busDataStep d s = s :=
  if_neg h

/-- In TX no input but an accept or reset is enabled; a host access leaves PHASE and TXI. -/
theorem react_tx_keeps {i : Input} {s t : State} (hphase : s.phase = .tx) (h : react i s = .next t)
    (haccept : i ≠ .txAccept) (hreset : i ≠ .reset) : t.phase = s.phase ∧ t.txi = s.txi := by
  cases i with
  | hostRead size off => rw [hostRead_cases h]; exact ⟨rfl, rfl⟩
  | hostWrite size off v => rw [hostWrite_busy (hphase.trans_ne nofun) h]; exact ⟨rfl, rfl⟩
  | txAccept => exact absurd rfl haccept
  | rxArrive b => cases h; exact ⟨rfl, rfl⟩
  | rxTake => cases h; rw [rxTakeStep_not_rx (hphase.trans_ne nofun)]; exact ⟨rfl, rfl⟩
  | busDone status => cases h; rw [busDoneStep_not_busWr status (hphase.trans_ne nofun)]; exact ⟨rfl, rfl⟩
  | busData d => cases h; rw [busDataStep_not_busRd d (hphase.trans_ne nofun)]; exact ⟨rfl, rfl⟩
  | tick => cases h; rw [tickStep_tx hphase]; exact ⟨rfl, rfl⟩
  | reset => exact absurd rfl hreset

/-- Settles O28: an accept by whether it takes the last byte and whether T is 0, any other input by its being enabled. -/
theorem onlyAcceptsAdvanceTx : Obligations.OnlyAcceptsAdvanceTx := by
  intro s hphase
  obtain ⟨htxi, hwire⟩ := txAcceptStep_takes hphase
  refine ⟨if_pos hphase, ⟨_, rfl, htxi, hwire, fun hmore => ?_, fun hlast hT => ?_, fun hlast hT => ?_⟩,
    congrArg Host.Outcome.next (tickStep_tx hphase),
    fun i t h haccept hreset => hphase ▸ react_tx_keeps hphase h haccept hreset⟩
  · rw [txAcceptStep_tx hphase, if_neg hmore]
    exact ⟨hphase, rfl⟩
  all_goals rw [txAcceptStep_tx hphase, if_pos hlast, enterSettle]
  · rw [if_neg (show settleTime (takeOffered s) ≠ 0 from hT)]
    exact ⟨rfl, rfl, rfl⟩
  · rw [if_pos (show settleTime (takeOffered s) = 0 from hT)]
    exact ⟨rfl, rfl, rfl, rfl⟩

end Sys2Proof.Machine
end

section
/-! PROOFS. The register-bus codec (41_bus_codec.md): the golden vector of the CRC-8 (R451), the end of a bus write and
its settle delay (R461), the bus waits (R479), and the delivery that ends a bus read (R471, R472, R478). -/

namespace Sys2Proof.Machine

/-! The CRC-8, R451 -/

/-- Settles O49: both values by running the sixteen bits of the loop (R450). -/
theorem crcGoldenVector : Obligations.CrcGoldenVector := by
  unfold Obligations.CrcGoldenVector
  constructor <;> simp [crc8, crcByte, crcInit, crcBit, crcPoly, Nat.repeat]

/-! The settle delay, 40 R413 -/

theorem tickStep_settle {s : State} (h : s.phase = .settle) : tickStep s = settleTick (newEpoch s) := by
  rw [tickStep, h]

/-- A Tick in SETTLE that leaves TMR below T only counts. -/
theorem tickStep_settle_counts {s : State} (h : s.phase = .settle) (htmr : s.tmr + 1 < settleTime s) :
    tickStep s = { s with tmr := s.tmr + 1, epoch := s.epoch + 1 } :=
  (tickStep_settle h).trans (if_neg htmr.ne)

/-- The Tick that makes TMR = T ends the send. -/
theorem tickStep_settle_ends {s : State} (h : s.phase = .settle) (htmr : s.tmr + 1 = settleTime s) :
    tickStep s = finishSend .ok { s with tmr := s.tmr + 1, epoch := s.epoch + 1 } :=
  (tickStep_settle h).trans (if_pos htmr)

theorem tickStep_iterate_settle {s : State} {k : Nat} (h : s.phase = .settle) (hk : s.tmr + k < settleTime s) :
    tickStep^[k] s = { s with tmr := s.tmr + k, epoch := s.epoch + k } := by
  induction k with
  | zero => rfl
  | succ k ih =>
    rw [Function.iterate_succ_apply', ih (by omega)]
    exact tickStep_settle_counts h hk

/-- From any TMR below T, the Tick that brings it to T ends the send. -/
theorem tickStep_iterate_settle_ends {s : State} (h : s.phase = .settle) (htmr : s.tmr < settleTime s) :
    tickStep^[settleTime s - s.tmr] s =
      finishSend .ok { s with tmr := settleTime s, epoch := s.epoch + (settleTime s - s.tmr) } := by
  obtain ⟨k, hk⟩ := Nat.exists_eq_add_of_lt htmr
  have hticks : settleTime s - s.tmr = k + 1 := by omega
  rw [hticks, Function.iterate_succ_apply', tickStep_iterate_settle h (by omega), hk]
  exact tickStep_settle_ends h hk.symm

/-- T Ticks after entering SETTLE the send has ended with OK, also where T is 0. -/
theorem tickStep_iterate_enterSettle (s : State) : tickStep^[settleTime s] (enterSettle s) =
    finishSend .ok { s with tmr := settleTime s, phase := .settle, epoch := s.epoch + settleTime s } := by
  obtain ⟨hT, henter⟩ | ⟨hT, henter⟩ := enterSettle_cases s
  · rw [henter]
    exact tickStep_iterate_settle_ends (s := { s with tmr := 0, phase := .settle }) rfl (Nat.pos_of_ne_zero hT)
  · rw [henter, hT]
    rfl

/-! The end of a bus write, R461 -/

theorem busDoneStep_error {s : State} {status : Byte} (h : s.phase = .busWr) (hstatus : status ≠ 0) :
    busDoneStep status s = finishSend .protocol { newEpoch s with busReq := none } :=
  (if_pos h).trans (if_pos hstatus)

theorem busDoneStep_ok {s : State} (h : s.phase = .busWr) :
    busDoneStep 0 s = enterSettle { newEpoch s with busReq := none } :=
  if_pos h

/-- Settles O31: a failed write ends at once; a completed one enters the settle delay, which T Ticks end. -/
theorem busCompletionEndsWrite : Obligations.BusCompletionEndsWrite := by
  intro s status hphase
  refine ⟨fun hstatus => ⟨_, congrArg Host.Outcome.next (busDoneStep_error hphase hstatus)⟩, ?_⟩
  rintro rfl
  refine ⟨_, congrArg Host.Outcome.next (busDoneStep_ok hphase), fun hT => ?_, _, rfl, ?_⟩
  · rw [enterSettle, if_neg (show settleTime { newEpoch s with busReq := none } ≠ 0 from hT)]
    rfl
  · rw [show settleTime s = settleTime { newEpoch s with busReq := none } from rfl, tickStep_iterate_enterSettle]
    rfl

/-! The bus waits, R479 -/

theorem tickStep_busWait {s : State} (h : s.phase = .busWr ∨ s.phase = .busRd) : tickStep s = s := by
  unfold tickStep
  obtain h | h := h <;> rw [h]

theorem txAcceptStep_not_tx {s : State} (h : s.phase ≠ .tx) : txAcceptStep s = s :=
  if_neg h

/-- While the bus has not answered, no input but its answer or reset is enabled; a host access leaves PHASE and the
request. -/
theorem react_busWait_keeps {i : Input} {s t : State} (hwait : s.phase = .busWr ∨ s.phase = .busRd)
    (h : react i s = .next t) (hreset : i ≠ .reset) (hdone : s.phase = .busWr → ∀ status, i ≠ .busDone status)
    (hdata : s.phase = .busRd → ∀ d, i ≠ .busData d) : t.phase = s.phase ∧ t.busReq = s.busReq := by
  have hother : ∀ p, p ≠ .busWr → p ≠ .busRd → s.phase ≠ p := fun p hwr hrd hp =>
    hwait.elim (fun hs => hwr (hp.symm.trans hs)) (fun hs => hrd (hp.symm.trans hs))
  cases i with
  | hostRead size off => rw [hostRead_cases h]; exact ⟨rfl, rfl⟩
  | hostWrite size off v => rw [hostWrite_busy (hother _ nofun nofun) h]; exact ⟨rfl, rfl⟩
  | txAccept => cases h; rw [txAcceptStep_not_tx (hother _ nofun nofun)]; exact ⟨rfl, rfl⟩
  | rxArrive b => cases h; exact ⟨rfl, rfl⟩
  | rxTake => cases h; rw [rxTakeStep_not_rx (hother _ nofun nofun)]; exact ⟨rfl, rfl⟩
  | busDone status => cases h; rw [busDoneStep_not_busWr status fun hs => hdone hs status rfl]; exact ⟨rfl, rfl⟩
  | busData d => cases h; rw [busDataStep_not_busRd d fun hs => hdata hs d rfl]; exact ⟨rfl, rfl⟩
  | tick => cases h; rw [tickStep_busWait hwait]; exact ⟨rfl, rfl⟩
  | reset => exact absurd rfl hreset

/-- Settles O32: a waiting state is a fixed point of the Tick, and the inputs that may end the wait are two. -/
theorem busWaitsHaveNoTimeout : Obligations.BusWaitsHaveNoTimeout :=
  fun _ hwait => ⟨fun k => Function.iterate_fixed (tickStep_busWait hwait) k,
    fun _ _ => react_busWait_keeps hwait⟩

/-! The delivery that ends a bus read, R471, R472, R478 -/

theorem scanDelivery_ne_nil {n : Nat} {trunc : Bool} {d : List Byte} (h : d ≠ []) :
    scanDelivery n trunc d = scanTriples n trunc d [] :=
  if_neg h

theorem ne_nil_of_scanDelivery_ok {n : Nat} {trunc : Bool} {d : List Byte} (h : (scanDelivery n trunc d).cls = .ok) :
    d ≠ [] := by
  rintro rfl
  exact absurd h nofun

/-- Without truncation the scan accepts N bytes or none (R476, R477). -/
theorem scanTriples_length_eq {n : Nat} {d acc : List Byte} (h : (scanTriples n false d acc).cls = .ok) :
    (scanTriples n false d acc).data.length = n := by
  fun_induction scanTriples n false d acc with
  | case2 _ _ _ _ _ _ hstop => exact absurd hstop nofun
  | case4 _ _ _ _ _ _ _ _ ih => exact ih h
  | case5 _ hn => exact hn
  | _ => exact absurd h nofun

theorem busDataStep_accepted {s : State} {d : List Byte} (h : s.phase = .busRd)
    (hok : (scanDelivery s.latch.n.toNat s.latch.trunc d).cls = .ok) : busDataStep d s =
    finishReceived (scanDelivery s.latch.n.toNat s.latch.trunc d).data { newEpoch s with busReq := none } :=
  (if_pos h).trans (if_pos hok)

theorem busDataStep_rejected {s : State} {d : List Byte} (h : s.phase = .busRd)
    (hbad : (scanDelivery s.latch.n.toNat s.latch.trunc d).cls ≠ .ok) : busDataStep d s =
    finishEmpty (scanDelivery s.latch.n.toNat s.latch.trunc d).cls { newEpoch s with busReq := none } :=
  (if_pos h).trans (if_neg hbad)

theorem finishReceived_ibLen {l : List Byte} (s : State) (h : l.length < 2 ^ 16) :
    (finishReceived l s).ibLen.toNat = l.length :=
  (BitVec.toNat_ofNat _ _).trans (Nat.mod_eq_of_lt h)

/-- Settles O40: by whether the delivery is accepted; one that is has data, and at most N bytes of it, which fit
IB_LEN. -/
theorem deliveryEndsBusRead : Obligations.DeliveryEndsBusRead := by
  intro s d hphase
  by_cases hok : (scanDelivery s.latch.n.toNat s.latch.trunc d).cls = .ok
  · have hd := ne_nil_of_scanDelivery_ok hok
    have hstep := busDataStep_accepted hphase hok
    rw [scanDelivery_ne_nil hd] at hok hstep
    refine ⟨_, congrArg Host.Outcome.next hstep, rfl, rfl, rfl, fun hnil => absurd hnil hd,
      fun _ => congrArg plainResult hok.symm, fun hbad => absurd rfl hbad, fun _ => ?_, rfl⟩
    have hle := scanTriples_length (d := d) (acc := []) (trunc := s.latch.trunc) (Nat.zero_le s.latch.n.toNat)
    have hlen := finishReceived_ibLen { newEpoch s with busReq := none } (hle.trans_lt s.latch.n.isLt)
    rw [hlen]
    refine ⟨hle, fun htrunc => ?_, bytesFrom_storeAll _ .ib _, fun a ha => read_storeAll_other _ .ib _ ha⟩
    rw [htrunc] at hlen hok ⊢
    exact BitVec.eq_of_toNat_eq (hlen.trans (scanTriples_length_eq hok))
  · refine ⟨_, congrArg Host.Outcome.next (busDataStep_rejected hphase hok), rfl, rfl, rfl, ?_, fun hd => ?_,
      fun _ => ⟨rfl, rfl⟩, fun hcls => absurd hcls hok, rfl⟩
    · rintro rfl
      exact ⟨rfl, rfl, rfl⟩
    · rw [scanDelivery_ne_nil hd]
      rfl

end Sys2Proof.Machine
end

section
/-! PROOFS. The byte-level primitives (42_primitives.md): STUFF (R500), UNSTUFF (R501), CKSUM (R502) and CRC8 (R503). -/

namespace Sys2Proof.Machine

/-- A primitive that ends in an idle block writes PRIM_OUT or CHK, RESULT, DONE and the latch only. -/
theorem finish_primitive {s : State} (h : s.phase = .idle) (c : ResultClass) (op : BitVec 4) (o : PrimOut) (v : Byte) :
    finish c { latchFields op false false 0 (accept s) with primOut := o, chk := v } =
      { s with primOut := o, chk := v, result := plainResult c, done := true,
               latch := { op := op, long := false, trunc := false, n := 0 } } := by
  cases s; subst h; rfl

/-! STUFF, R500 -/

theorem execStuff_idle {s : State} (h : s.phase = .idle) : execStuff s = .next { s with
    primOut := stuffOut s.primIn0, result := plainResult .ok, done := true,
    latch := { op := 0x8, long := false, trunc := false, n := 0 } } :=
  congrArg Host.Outcome.next (finish_primitive h .ok 0x8 (stuffOut s.primIn0) s.chk)

theorem stuffOut_reserved {b : Byte} (h : b ∈ [0x11#8, 0x13#8, 0x7D#8, 0x7E#8]) :
    stuffOut b = { cnt := 2, o0 := 0x7D, o1 := b ^^^ 0x20 } := by
  rw [stuffOut, stuff_reserved h]; rfl

theorem stuffOut_unreserved {b : Byte} (h : b ∉ [0x11#8, 0x13#8, 0x7D#8, 0x7E#8]) :
    stuffOut b = { cnt := 1, o0 := b, o1 := 0 } := by
  rw [stuffOut, stuff_unreserved h]; rfl

/-- Settles O45: the end of a primitive, with PRIM_OUT by whether the operand is a reserved byte. -/
theorem stuffResult : Obligations.StuffResult := by
  intro s hidle
  refine (execStuff_idle hidle).trans ?_
  split
  · rename_i hreserved
    rw [stuffOut_reserved hreserved]
  · rename_i hplain
    rw [stuffOut_unreserved hplain]

/-! UNSTUFF, R501 -/

theorem execUnstuff_idle {s : State} {c : ResultClass} {o : PrimOut} (h : s.phase = .idle)
    (hres : unstuffResult s.primIn0 s.primIn1 = (c, o)) : execUnstuff s = .next { s with
    primOut := o, result := plainResult c, done := true,
    latch := { op := 0x9, long := false, trunc := false, n := 0 } } := by
  rw [execUnstuff, hres]
  exact congrArg Host.Outcome.next (finish_primitive h c 0x9 o s.chk)

theorem unstuffResult_bad {b0 b1 : Byte}
    (h : b0 = 0x7E ∨ (b0 = 0x7D ∧ b1 ∉ [0x31#8, 0x33#8, 0x5D#8, 0x5E#8])) :
    unstuffResult b0 b1 = (.protocol, { cnt := 0, o0 := 0, o1 := 0 }) := by
  obtain rfl | ⟨rfl, hb1⟩ := h
  · rfl
  · simp [unstuffResult, delim, esc, unescape_bad hb1]

theorem unstuffResult_escape {b1 : Byte} (h : b1 ∈ [0x31#8, 0x33#8, 0x5D#8, 0x5E#8]) :
    unstuffResult 0x7D b1 = (.ok, { cnt := 2, o0 := b1 ^^^ 0x20, o1 := 0 }) := by
  simp [unstuffResult, delim, esc, unescape_valid h]

theorem unstuffResult_plain {b0 : Byte} (b1 : Byte) (hdelim : b0 ≠ 0x7E) (hesc : b0 ≠ 0x7D) :
    unstuffResult b0 b1 = (.ok, { cnt := 1, o0 := b0, o1 := 0 }) :=
  (if_neg hdelim).trans (if_neg hesc)

theorem unstuffResult_good {b0 b1 : Byte}
    (h : ¬ (b0 = 0x7E ∨ (b0 = 0x7D ∧ b1 ∉ [0x31#8, 0x33#8, 0x5D#8, 0x5E#8]))) :
    unstuffResult b0 b1 = (.ok, if b0 = 0x7D then { cnt := 2, o0 := b1 ^^^ 0x20, o1 := 0 }
                                else { cnt := 1, o0 := b0, o1 := 0 }) := by
  obtain ⟨hdelim, hescape⟩ := not_or.mp h
  split
  · subst b0
    exact unstuffResult_escape (not_not.mp fun hb1 => hescape ⟨rfl, hb1⟩)
  · rename_i hesc
    exact unstuffResult_plain b1 hdelim hesc

/-- Settles O46: the end of a primitive, with its class and PRIM_OUT by whether the operand is a delimiter or a bad
escape. -/
theorem unstuffResult_holds : Obligations.UnstuffResult := by
  intro s hidle
  split
  · rename_i hbad
    exact execUnstuff_idle hidle (unstuffResult_bad hbad)
  · rename_i hgood
    exact execUnstuff_idle hidle (unstuffResult_good hgood)

/-! CKSUM and CRC8, R502, R503 -/

theorem execCksum_payload {s : State} {p : List Byte} (h : s.phase = .idle) (hcap : payloadTooLong s = false)
    (hp : payload s = some p) : execCksum s = .next { s with
    chk := cks8 p, result := plainResult .ok, done := true,
    latch := { op := 0xA, long := false, trunc := false, n := 0 } } := by
  simp only [execCksum, hcap, hp]
  exact congrArg Host.Outcome.next (finish_primitive h .ok 0xA s.primOut (cks8 p))

theorem execCrc8_payload {s : State} {p : List Byte} (h : s.phase = .idle) (hcap : payloadTooLong s = false)
    (hp : payload s = some p) : execCrc8 s = .next { s with
    chk := crc8 p, result := plainResult .ok, done := true,
    latch := { op := 0xB, long := false, trunc := false, n := 0 } } := by
  simp only [execCrc8, hcap, hp]
  exact congrArg Host.Outcome.next (finish_primitive h .ok 0xB s.primOut (crc8 p))

/-- Settles O47: both read the payload that the host has written; beyond PB_CAP both answer PARAM (R322). -/
theorem cksumAndCrc8Results : Obligations.CksumAndCrc8Results := by
  refine ⟨fun s p hidle hfits hlen hpb => ?_, fun s hidle hlong => ?_⟩
  · have hcap : payloadTooLong s = false := payloadTooLong_eq_false.mpr hfits
    have hp : payload s = some p := payload_some hlen hpb
    exact ⟨execCksum_payload hidle hcap hp, execCrc8_payload hidle hcap hp⟩
  · obtain ⟨-, -, hcksum, hcrc8⟩ := (oversizeIsParam s false 0 hidle).left hlong
    exact ⟨hcksum, hcrc8⟩

end Sys2Proof.Machine
end

section
/-! PROOFS. The command word (30_encoding.md R300 to R302, R330): assembling fields and reading them back are inverse,
and so are the encoder and the decoder. -/

namespace Sys2Proof.Machine

/-! Assembling a word and reading its fields, R300 -/

/-- The bits of an assembled word are those of its fields, in the order of R300. -/
theorem assemble_getLsbD (f : CmdFields) (k : Nat) : (assemble f).getLsbD k =
    if k < 4 then f.op.getLsbD k
    else if k < 7 then (if k = 4 then f.long else if k = 5 then f.sub else f.trunc)
    else if k < 16 then f.reserved.getLsbD (k - 7)
    else f.n.getLsbD (k - 16) := by
  by_cases h32 : k < 32
  · simp only [assemble, BitVec.getLsbD_or, BitVec.getLsbD_shiftLeft, BitVec.getLsbD_setWidth, BitVec.getLsbD_ofBool]
    interval_cases k <;> simp
  · rw [BitVec.getLsbD_of_ge _ _ (by omega), if_neg (by omega), if_neg (by omega), if_neg (by omega),
      BitVec.getLsbD_of_ge _ _ (by omega)]

theorem cmdFields_assemble (f : CmdFields) : cmdFields (assemble f) = f := by
  obtain ⟨op, long, sub, trunc, reserved, n⟩ := f
  simp only [cmdFields, CmdFields.mk.injEq, assemble_getLsbD]
  refine ⟨?_, rfl, rfl, rfl, ?_, ?_⟩
  all_goals
    apply BitVec.eq_of_getLsbD_eq
    intro k hk
    simp only [BitVec.getLsbD_extractLsb', assemble_getLsbD, hk, decide_true, Bool.true_and]
  · simp [hk]
  · rw [if_neg (by omega), if_neg (by omega), if_pos (by omega), Nat.add_sub_cancel_left]
  · rw [if_neg (by omega), if_neg (by omega), if_neg (by omega), Nat.add_sub_cancel_left]

theorem assemble_cmdFields (v : Word) : assemble (cmdFields v) = v := by
  apply BitVec.eq_of_getLsbD_eq
  intro k hk
  simp only [assemble_getLsbD, cmdFields, BitVec.getLsbD_extractLsb']
  interval_cases k <;> simp

/-! Commands and their fields, R301, R302 -/

theorem decodeFields_instrFields (i : Instr) : decodeFields (instrFields i) = .ok i := by
  cases i <;> simp [decodeFields, instrFields, onlyUsed]

theorem onlyUsed_eq_ok {bad : Bool} {i j : Instr} : onlyUsed bad j = .ok i ↔ bad = false ∧ i = j := by
  cases bad <;> simp [onlyUsed, eq_comm]

/-- For each OP the decoder keeps the fields that R302 gives it and finds every other field 0. -/
theorem instrFields_of_decodeFields {f : CmdFields} {i : Instr} (h : decodeFields f = .ok i) : instrFields i = f := by
  obtain ⟨hop, hres, -⟩ := (wellFormed_iff f).mp ((decodeFields_ok f).mp ⟨i, h⟩)
  obtain ⟨op, long, sub, trunc, reserved, n⟩ := f
  obtain rfl : reserved = 0 := hres
  simp only [List.mem_cons, List.not_mem_nil, or_false] at hop
  obtain rfl | rfl | rfl | rfl | rfl | rfl | rfl | rfl | rfl | rfl := hop <;>
    · simp [decodeFields, onlyUsed_eq_ok] at h
      simp [instrFields, h]

/-- Settles O1: the word shows the command's own fields, and the decoder takes them. -/
theorem encodeThenDecode : Obligations.EncodeThenDecode := by
  intro i
  rw [decode, encode, cmdFields_assemble, decodeFields_instrFields]

/-- Settles O2: the accepted fields are those the command is written with, and they make up the whole word. -/
theorem decodeThenEncode : Obligations.DecodeThenEncode := by
  intro v i h
  rw [encode, instrFields_of_decodeFields h, assemble_cmdFields]

/-- Settles O3: each word is the encoding of its command, by computation. -/
theorem specWordsDecode : Obligations.SpecWordsDecode := by
  unfold Obligations.SpecWordsDecode
  decide

end Sys2Proof.Machine
end

section
/-! PROOFS. Receiving from the stream (40_stream_codec.md section 4): the reassembly machine undoes stuffing (R403), and
S_RECV receives a whole response frame (R420 to R437). -/

namespace Sys2Proof.Machine

/-! The raw body that the machine stores, R423 to R425 -/

/-- The raw bytes of `l` stored behind those already in RB, and counted in RB_LEN. -/
def appendRaw (l : List Byte) (s : State) : State :=
  { s with mem := s.mem.writeFrom .rb s.rbLen.toNat l, rbLen := s.rbLen + BitVec.ofNat 16 l.length }

theorem appendRaw_nil (s : State) : appendRaw [] s = s := by
  simp [appendRaw, Memory.writeFrom]

/-- RB_CAP fits RB_LEN, so a count that stays within it never wraps (10 R111). -/
theorem appendRaw_rbLen {s : State} {l : List Byte} (h : s.rbLen.toNat + l.length ≤ s.params.rbCap) :
    (appendRaw l s).rbLen.toNat = s.rbLen.toNat + l.length := by
  have hcap : s.params.rbCap ≤ 2048 := Buf.cap_le s.params .rb
  rw [appendRaw, BitVec.toNat_add, BitVec.toNat_ofNat]
  omega

theorem appendRaw_cons {s : State} (b : Byte) (l : List Byte) (h : s.rbLen.toNat + 1 ≤ s.params.rbCap) :
    appendRaw l (appendRaw [b] s) = appendRaw (b :: l) s := by
  have hlen : (appendRaw [b] s).rbLen.toNat = s.rbLen.toNat + 1 := appendRaw_rbLen h
  have hsum : BitVec.ofNat 16 1 + BitVec.ofNat 16 l.length = BitVec.ofNat 16 (l.length + 1) := by
    rw [← BitVec.ofNat_add, Nat.add_comm]
  rw [appendRaw, hlen]
  simp only [appendRaw, List.length_cons, List.length_nil, Nat.zero_add, BitVec.add_assoc, hsum]
  rfl

/-- With room in RB a store succeeds, and the machine goes on in IN_BODY. -/
theorem storeBody_room {s : State} (b : Byte) (hbody : s.rxst = .inBody) (h : s.rbLen.toNat + 1 ≤ s.params.rbCap) :
    storeBody b s = appendRaw [b] s := by
  rw [storeBody, if_neg (Nat.ne_of_lt h), ← hbody]
  rfl

/-- How the machine reads the wire form of one raw byte: it stores the byte, at once or from the state ESCAPE. -/
theorem stuff_read (b : Byte) :
    (stuff b = [b] ∧ ∀ s : State, s.rxst = .inBody → s.rbLen.toNat + 1 ≤ s.params.rbCap →
      rxByte b s = appendRaw [b] s) ∨
    (∃ e, stuff b = [0x7D, e] ∧ ∀ s : State, s.rxst = .inBody → s.rbLen.toNat + 1 ≤ s.params.rbCap →
      rxByte 0x7D s = { s with rxst := .escape } ∧ rxByte e { s with rxst := .escape } = appendRaw [b] s) := by
  by_cases hb : b ∈ [0x11#8, 0x13#8, 0x7D#8, 0x7E#8]
  · refine .inr ⟨_, stuff_reserved hb, fun s hbody hroom => ⟨(rxByte_inBody _ hbody).trans rfl, ?_⟩⟩
    rw [rxByte_escape_valid rfl (unescape_escaped hb), ← storeBody_room b hbody hroom]
    rfl
  · obtain ⟨hstuff, hplain⟩ := stuffUnstuffRoundTrip.right.left b hb
    exact .inl ⟨hstuff, fun s hbody hroom => (hplain s hbody).trans (storeBody_room b hbody hroom)⟩

theorem foldl_rxByte_stuff {s : State} (b : Byte) (hbody : s.rxst = .inBody)
    (hroom : s.rbLen.toNat + 1 ≤ s.params.rbCap) :
    (stuff b).foldl (fun u c => rxByte c u) s = appendRaw [b] s := by
  obtain ⟨hstuff, hread⟩ | ⟨e, hstuff, hread⟩ := stuff_read b
  · rw [hstuff]
    exact hread s hbody hroom
  · obtain ⟨hesc, hstore⟩ := hread s hbody hroom
    rw [hstuff, List.foldl_cons, hesc]
    exact hstore

theorem foldl_rxByte_stuffAll {s : State} (l : List Byte) (hbody : s.rxst = .inBody)
    (hroom : s.rbLen.toNat + l.length ≤ s.params.rbCap) :
    (stuffAll l).foldl (fun u c => rxByte c u) s = appendRaw l s := by
  induction l generalizing s with
  | nil => rw [appendRaw_nil]; rfl
  | cons b l ih =>
    rw [List.length_cons] at hroom
    have hone : s.rbLen.toNat + 1 ≤ s.params.rbCap := by omega
    have hrest : (appendRaw [b] s).rbLen.toNat + l.length ≤ s.params.rbCap := by
      rw [appendRaw_rbLen hone, List.length_singleton]; omega
    rw [stuffAll_cons, List.foldl_append, foldl_rxByte_stuff b hbody hone, 
      ih (s := appendRaw [b] s) hbody hrest, appendRaw_cons b l hone]

/-- Settles O38: by induction on the raw bytes, the machine appends each to RB. -/
theorem stuffedBodyIsReassembled : Obligations.StuffedBodyIsReassembled := by
  intro s l hbody hroom
  exact ⟨appendRaw l s, foldl_rxByte_stuffAll l hbody hroom, rfl, appendRaw_rbLen hroom,
    fun k hk => Memory.read_writeFrom hk, fun a ha => Memory.read_writeFrom_other ha⟩

/-! The byte steps of S_RECV, R421 -/

/-- The state in which `n` bytes have been taken and `q` is still queued, the machine and RB as before. -/
def dequeued (n : Nat) (q : List Byte) (s : State) : State := { s with rxQueue := q, epoch := s.epoch + n }

theorem dequeued_appendRaw (n : Nat) (q l : List Byte) (s : State) :
    dequeued n q (appendRaw l s) = appendRaw l (dequeued n q s) := rfl

theorem dequeued_dequeued (m n : Nat) (q r : List Byte) (s : State) :
    dequeued m q (dequeued n r s) = dequeued (m + n) q s := by
  simp only [dequeued, Nat.add_assoc, Nat.add_comm m n]

theorem rxTakeStep_takes {s : State} {b : Byte} {q : List Byte} (h : s.phase = .rx) (hopen : rxOpen s = true)
    (hq : s.rxQueue = b :: q) : rxTakeStep s = rxByte b (dequeued 1 q s) := by
  rw [rxTakeStep, hq]
  exact if_pos ⟨h, hopen⟩

theorem rxOpen_inBody {s : State} (h : s.rxst = .inBody) : rxOpen s = true :=
  rxOpen_eq_true.mpr (.inr (.inl h))

theorem rxTakeStep_iterate_stuff {s : State} {b : Byte} {q : List Byte} (hphase : s.phase = .rx)
    (hbody : s.rxst = .inBody) (hroom : s.rbLen.toNat + 1 ≤ s.params.rbCap) (hq : s.rxQueue = stuff b ++ q) :
    rxTakeStep^[(stuff b).length] s = appendRaw [b] (dequeued (stuff b).length q s) := by
  obtain ⟨hstuff, hread⟩ | ⟨e, hstuff, hread⟩ := stuff_read b <;> rw [hstuff] at hq ⊢
  · exact (rxTakeStep_takes hphase (rxOpen_inBody hbody) hq).trans (hread (dequeued 1 q s) hbody hroom)
  · have hfirst : rxTakeStep s = { dequeued 1 (e :: q) s with rxst := .escape } :=
      (rxTakeStep_takes hphase (rxOpen_inBody hbody) hq).trans (hread (dequeued 1 (e :: q) s) hbody hroom).left
    have hsecond : rxTakeStep { dequeued 1 (e :: q) s with rxst := .escape } =
        rxByte e { dequeued 2 q s with rxst := .escape } :=
      rxTakeStep_takes (s := { dequeued 1 (e :: q) s with rxst := .escape }) hphase rfl rfl
    exact (congrArg rxTakeStep hfirst).trans (hsecond.trans (hread (dequeued 2 q s) hbody hroom).right)

theorem rxTakeStep_iterate_stuffAll {s : State} {l q : List Byte} (hphase : s.phase = .rx)
    (hbody : s.rxst = .inBody) (hroom : s.rbLen.toNat + l.length ≤ s.params.rbCap) (hq : s.rxQueue = stuffAll l ++ q) :
    rxTakeStep^[(stuffAll l).length] s = appendRaw l (dequeued (stuffAll l).length q s) := by
  induction l generalizing s with
  | nil =>
    rw [appendRaw_nil, dequeued]
    cases s; subst hq; rfl
  | cons b l ih =>
    rw [List.length_cons] at hroom
    have hone : s.rbLen.toNat + 1 ≤ s.params.rbCap := by omega
    have hrest : (appendRaw [b] s).rbLen.toNat + l.length ≤ s.params.rbCap := by
      rw [appendRaw_rbLen hone, List.length_singleton]; omega
    rw [stuffAll_cons, List.append_assoc] at hq
    rw [stuffAll_cons, List.length_append, Nat.add_comm, Function.iterate_add_apply,
      rxTakeStep_iterate_stuff hphase hbody hone hq,
      ih (s := appendRaw [b] (dequeued (stuff b).length (stuffAll l ++ q) s)) hphase hbody hrest rfl,
      dequeued_appendRaw, dequeued_dequeued, Nat.add_comm]
    exact appendRaw_cons b l hone

/-! A whole response frame, R420 to R437 -/

/-- The state in which S_RECV waits for the first byte of its frame (R420). -/
def receiving (n : Count) (s : State) : State :=
  { s with done := false, rxst := .awaitDelim, rbLen := 0, tmr := 0, phase := .rx,
           latch := { op := 0x3, long := false, trunc := false, n := n } }

/-- Settles O33: S_RECV passes both its checks. -/
theorem sRecvStartsReassembly : Obligations.SRecvStartsReassembly := by
  intro s n _ hx hn
  have hcount : ¬ countTooLong n s = true := mt countTooLong_eq_true.mp (Nat.not_lt.mpr hn)
  exact (if_neg (not_not_intro hx)).trans (if_neg hcount)

theorem rxTakeStep_opens {s : State} {q : List Byte} (hphase : s.phase = .rx) (hawait : s.rxst = .awaitDelim)
    (hq : s.rxQueue = delim :: q) : rxTakeStep s = { dequeued 1 q s with rxst := .inBody } :=
  (rxTakeStep_takes hphase (rxOpen_eq_true.mpr (.inl hawait)) hq).trans
    ((rxByte_awaitDelim (s := dequeued 1 q s) delim hawait).trans (if_pos rfl))

theorem rxTakeStep_closes {s : State} {q : List Byte} (hphase : s.phase = .rx) (hbody : s.rxst = .inBody)
    (hq : s.rxQueue = delim :: q) : rxTakeStep s = validate { dequeued 1 q s with rxst := .done } :=
  (rxTakeStep_takes hphase (rxOpen_inBody hbody) hq).trans
    ((rxByte_inBody (s := dequeued 1 q s) delim hbody).trans (if_pos rfl))

/-- The byte steps over a frame: the first delimiter opens the body, the stuffed bytes append the raw ones to RB,
and the last delimiter starts the validation. -/
theorem rxTakeStep_iterate_frame {s : State} {body rest : List Byte} (hphase : s.phase = .rx)
    (hawait : s.rxst = .awaitDelim) (hroom : s.rbLen.toNat + (body ++ [cks8 body]).length ≤ s.params.rbCap)
    (hq : s.rxQueue = streamFrame body ++ rest) : rxTakeStep^[(streamFrame body).length] s =
      validate { appendRaw (body ++ [cks8 body]) (dequeued (streamFrame body).length rest s) with rxst := .done } := by
  have hframe : streamFrame body = delim :: (stuffAll (body ++ [cks8 body]) ++ [delim]) := rfl
  generalize body ++ [cks8 body] = raw at *
  rw [hframe, List.cons_append, List.append_assoc, List.singleton_append] at hq
  rw [hframe, List.length_cons, List.length_append, List.length_singleton, Function.iterate_succ_apply,
    rxTakeStep_opens hphase hawait hq, Function.iterate_succ_apply',
    rxTakeStep_iterate_stuffAll (by exact hphase) rfl (by exact hroom) rfl, rxTakeStep_closes (by exact hphase) rfl rfl]
  simp only [dequeued, appendRaw, Nat.add_assoc, Nat.add_comm 1]

/-- The validation of a response with status 0, the right length byte and the expected payload (R430 to R436). -/
theorem validate_response {s : State} {addr echo : Byte} {p body : List Byte}
    (hbody : body = [addr, echo, 0x00, BitVec.ofNat 8 p.length] ++ p) (hraw : rawBody s = body ++ [cks8 body])
    (hlen : p.length ≤ 255) (hexp : s.latch.n.toNat = p.length) : validate s = finishReceived p s := by
  have hbodylen : body.length = p.length + 4 := by simp [hbody]
  have hm : (body ++ [cks8 body]).length = p.length + 5 := by simp [hbodylen]
  have hcovered : (body ++ [cks8 body]).take (p.length + 5 - 1) = body := List.take_left' hbodylen
  have hsum : (body ++ [cks8 body]).getD (p.length + 5 - 1) 0 = cks8 body := by simp [← hbodylen]
  have hstatus : (body ++ [cks8 body]).getD 2 0 = 0x00 := by simp [hbody]
  have hlength : (body ++ [cks8 body]).getD 3 0 = BitVec.ofNat 8 p.length := by simp [hbody]
  have hpayload : ((body ++ [cks8 body]).drop 4).take p.length = p := by simp [hbody]
  have hfits : (BitVec.ofNat 8 p.length).toNat = p.length := by rw [BitVec.toNat_ofNat]; omega
  simp only [validate, hraw, hm, hcovered, hsum, hstatus, hlength, hfits, Nat.add_sub_cancel, hpayload, hexp]
  simp

/-- A store in one buffer leaves the bytes of another alone. -/
theorem bytesFrom_storeAll_other {s : State} {b c : Buf} {l : List Byte} {n : Nat} (h : c ≠ b) (hl : l.length ≤ 2048)
    (hn : n ≤ 2048) : bytesFrom (storeAll b l s) c 0 n = bytesFrom s c 0 n := by
  apply List.map_congr_left
  intro k hk
  have hk : k < n := List.mem_range.mp hk
  rw [byteOf, read_storeAll_other _ _ _ fun j hj => Buf.addr_ne h (by omega) (by omega)]
  rfl

/-- From an empty RB the raw bytes appended are the raw body. -/
theorem bytesFrom_appendRaw {u : State} (raw : List Byte) (hempty : u.rbLen = 0) :
    bytesFrom (appendRaw raw u) .rb 0 raw.length = raw := by
  refine Eq.trans ?_ (bytesFrom_storeAll u .rb raw)
  simp only [bytesFrom, byteOf, appendRaw, storeAll, hempty]
  rfl

/-- From an empty RB the byte steps over a response frame leave its raw body there, and the validation accepts it. -/
theorem rxTakeStep_iterate_response {u : State} {addr echo : Byte} {p body rest : List Byte} (hphase : u.phase = .rx)
    (hawait : u.rxst = .awaitDelim) (hempty : u.rbLen = 0) (hq : u.rxQueue = streamFrame body ++ rest)
    (hbody : body = [addr, echo, 0x00, BitVec.ofNat 8 p.length] ++ p) (hlen : p.length ≤ 255)
    (hexp : u.latch.n.toNat = p.length) (hroom : (body ++ [cks8 body]).length ≤ u.params.rbCap) :
    rxTakeStep^[(streamFrame body).length] u = finishReceived p
      { appendRaw (body ++ [cks8 body]) (dequeued (streamFrame body).length rest u) with rxst := .done } := by
  have hroom : u.rbLen.toNat + (body ++ [cks8 body]).length ≤ u.params.rbCap := by simpa [hempty] using hroom
  rw [rxTakeStep_iterate_frame hphase hawait hroom hq]
  refine validate_response hbody ?_ hlen hexp
  refine Eq.trans ?_ (bytesFrom_appendRaw (u := dequeued (streamFrame body).length rest u) _ hempty)
  change bytesFrom _ .rb 0 (appendRaw _ u).rbLen.toNat = _
  rw [appendRaw_rbLen hroom, hempty]
  exact congrArg (bytesFrom _ .rb 0) (Nat.zero_add _)

/-- Settles O39: S_RECV starts the machine with RB empty, and its byte steps receive the frame. -/
theorem responseFrameIsReceived : Obligations.ResponseFrameIsReceived := by
  intro s n addr echo p body rest hidle hx hn hib hrb h255 hbody hq
  have hrawlen : (body ++ [cks8 body]).length = p.length + 5 := by simp [hbody]
  have hcap : s.params.rbCap ≤ 2048 := Buf.cap_le s.params .rb
  have hraw := bytesFrom_appendRaw (u := dequeued (streamFrame body).length rest (receiving n s))
    (body ++ [cks8 body]) rfl
  have hrblen : (appendRaw (body ++ [cks8 body]) (receiving n s)).rbLen.toNat = 0 + (body ++ [cks8 body]).length :=
    appendRaw_rbLen (by rw [hrawlen]; exact (Nat.zero_add _).trans_le hrb)
  have hrun := rxTakeStep_iterate_response (u := receiving n s) rfl rfl rfl hq hbody h255 hn (by rwa [hrawlen])
  refine ⟨receiving n s, _, sRecvStartsReassembly s n hidle hx (hn ▸ hib), hrun.symm, rfl, rfl, rfl, rfl, rfl,
    finishReceived_ibLen _ (by omega), bytesFrom_storeAll _ .ib p, ?_, ?_⟩
  · rw [Nat.zero_add, hrawlen] at hrblen
    exact hrblen
  · rw [hrawlen] at hraw
    exact (bytesFrom_storeAll_other (b := .ib) (c := .rb) (l := p) (by decide) (by omega) (by omega)).trans hraw

end Sys2Proof.Machine
end

section
/-! PROOFS. What a command, a taken byte and an engine step can do, said once: each leaves the block in
one of the states listed here. -/

namespace Sys2Proof.Machine

/-! Commands -/

/-- The states in which a command that does not fault can leave the block (40_stream_codec.md, 41_bus_codec.md,
42_primitives.md): PARAM by a check, an encode, a send or a receive that has started, or the end of a primitive. -/
inductive CommandResult (s : State) : Instr → State → Prop
  | param (i : Instr) : CommandResult s i (finish .param (accept s))
  | sEncode (sub : Bool) (l : List Byte) (hfits : l.length ≤ s.params.wbCap) :
    CommandResult s (.sEncode sub) (finishEncoded l (latchFields 0x1 false false 0 (accept s)))
  | sSend (long : Bool) (hx : s.xport = .stream) (hwb : s.wbLen ≠ 0) :
    CommandResult s (.sSend long) { latchFields 0x2 long false 0 (accept s) with txi := 0, phase := .tx }
  | sRecv (n : Count) (hx : s.xport = .stream) (hn : n.toNat ≤ s.params.ibCap.val) :
    CommandResult s (.sRecv n) (receiving n s)
  | bEncode (l : List Byte) (hfits : l.length ≤ s.params.wbCap) :
    CommandResult s .bEncode (finishEncoded l (latchFields 0x5 false false 0 (accept s)))
  | bSend (long : Bool) (hx : s.xport = .bus) (hwb : s.wbLen ≠ 0) :
    CommandResult s (.bSend long) { latchFields 0x6 long false 0 (accept s) with
      phase := .busWr, busReq := some (.write s.params.busDevAddr (wireBytes s)) }
  | bRecv (trunc : Bool) (n : Count) (hx : s.xport = .bus) (hn : n.toNat ≤ s.params.ibCap.val) :
    CommandResult s (.bRecv trunc n) { latchFields 0x7 false trunc n (accept s) with
      phase := .busRd, busReq := some (.read s.params.busDevAddr (busRawCount n)) }
  | stuff : CommandResult s .stuff
      (finish .ok { latchFields 0x8 false false 0 (accept s) with primOut := stuffOut s.primIn0 })
  | unstuff : CommandResult s .unstuff (finish (unstuffResult s.primIn0 s.primIn1).1
      { latchFields 0x9 false false 0 (accept s) with primOut := (unstuffResult s.primIn0 s.primIn1).2 })
  | cksum (p : List Byte) : CommandResult s .cksum
      (finish .ok { latchFields 0xA false false 0 (accept s) with chk := cks8 p })
  | crc8 (p : List Byte) : CommandResult s .crc8
      (finish .ok { latchFields 0xB false false 0 (accept s) with chk := Machine.crc8 p })

theorem countTooLong_eq_false {n : Count} {s : State} (h : ¬ countTooLong n s = true) :
    n.toNat ≤ s.params.ibCap.val :=
  Nat.not_lt.mp (mt countTooLong_eq_true.mpr h)

theorem nothingEncoded_eq_true {s : State} : nothingEncoded s = true ↔ s.wbLen = 0 :=
  decide_eq_true_iff

/-- The payload that a command reads has passed the check against PB_CAP (30 R322). -/
theorem payload_length_le {s : State} {p : List Byte} (hcap : ¬ payloadTooLong s = true) (hp : payload s = some p) :
    p.length ≤ s.params.pbCap.val :=
  payload_length hp ▸ payloadTooLong_eq_false.mp (Bool.eq_false_of_not_eq_true hcap)

theorem execSEncode_result {sub : Bool} {s t : State} (h : execSEncode sub s = .next t) :
    CommandResult s (.sEncode sub) t := by
  have hfits := encodingsFitWireBuffer.right.right.right s.params
  unfold execSEncode at h
  split_ifs at h with hx hcap hsub hlen hmax
  · cases h; exact .param _
  · cases h; exact .param _
  · cases h; exact .param _
  · cases h; exact .sEncode sub _ (hfits 0 s.lead 0 [] (Nat.zero_le _)).left.le
  · cases h; exact .param _
  · split at h <;> cases h
    rename_i p hp
    exact .sEncode sub _ (hfits 0 s.lead s.subc p (payload_length_le hcap hp)).right.left.le

theorem execBEncode_result {s t : State} (h : execBEncode s = .next t) : CommandResult s .bEncode t := by
  unfold execBEncode at h
  split_ifs at h with hx hcap heven
  · cases h; exact .param _
  · cases h; exact .param _
  · cases h; exact .param _
  · split at h <;> cases h
    rename_i p hp
    exact .bEncode _ (encodingsFitWireBuffer.right.right.right s.params s.regAddr 0 0 p
      (payload_length_le hcap hp)).right.right.le

theorem exec_result {i : Instr} {s t : State} (h : exec i s = .next t) : CommandResult s i t := by
  cases i with
  | sEncode sub => exact execSEncode_result h
  | sSend long =>
    simp only [exec, execSSend] at h
    split_ifs at h with hx hwb <;> cases h
    · exact .param _
    · exact .param _
    · exact .sSend long (not_not.mp hx) (mt nothingEncoded_eq_true.mpr hwb)
  | sRecv n =>
    simp only [exec, execSRecv] at h
    split_ifs at h with hx hn <;> cases h
    · exact .param _
    · exact .param _
    · exact .sRecv n (not_not.mp hx) (countTooLong_eq_false hn)
  | bEncode => exact execBEncode_result h
  | bSend long =>
    simp only [exec, execBSend] at h
    split_ifs at h with hx hwb <;> cases h
    · exact .param _
    · exact .param _
    · exact .bSend long (not_not.mp hx) (mt nothingEncoded_eq_true.mpr hwb)
  | bRecv trunc n =>
    simp only [exec, execBRecv] at h
    split_ifs at h with hx hn <;> cases h
    · exact .param _
    · exact .param _
    · exact .bRecv trunc n (not_not.mp hx) (countTooLong_eq_false hn)
  | stuff => cases h; exact .stuff
  | unstuff => cases h; exact .unstuff
  | cksum =>
    simp only [exec, execCksum] at h
    split_ifs at h with hcap
    · cases h; exact .param _
    · split at h <;> cases h
      exact .cksum _
  | crc8 =>
    simp only [exec, execCrc8] at h
    split_ifs at h with hcap
    · cases h; exact .param _
    · split at h <;> cases h
      exact .crc8 _

/-! Taken bytes -/

/-- The states in which a byte taken by the open machine can leave the block (40 R422 to R425, R430 to R436):
the machine goes on, with or without a byte stored, or the receive ends. -/
inductive ByteResult (s : State) : State → Prop
  | goesOn (r : RxState) (hr : r = .inBody ∨ r = .escape) : ByteResult s { s with rxst := r }
  | stores (x : Byte) (hroom : s.rbLen.toNat ≠ s.params.rbCap) : ByteResult s { s with
      mem := s.mem.write (Buf.rb.addr s.rbLen.toNat) x, rbLen := s.rbLen + 1, rxst := .inBody }
  | fails : ByteResult s (failReceive .protocol s)
  | rejected (c : ResultClass) (hc : c = .protocol ∨ c = .dataLen) :
    ByteResult s (finishEmpty c { s with rxst := .done })
  | device (status : Byte) : ByteResult s (finishDevice status { s with rxst := .done, ibLen := 0 })
  | received (l : List Byte) (hl : l.length = s.latch.n.toNat) :
    ByteResult s (finishReceived l { s with rxst := .done })

theorem storeBody_result (x : Byte) (s : State) : ByteResult s (storeBody x s) := by
  unfold storeBody
  split
  · exact .fails
  · rename_i hroom
    exact .stores x hroom

theorem validate_result (s : State) : ByteResult s (validate { s with rxst := .done }) := by
  unfold validate
  dsimp only
  split_ifs with hshort hsum hstatus hlength hexp
  · exact .rejected _ (.inl rfl)
  · exact .rejected _ (.inl rfl)
  · exact .device _
  · exact .rejected _ (.inr rfl)
  · exact .rejected _ (.inr rfl)
  · refine .received _ ?_
    have hexp := not_not.mp hexp
    rw [List.length_take, List.length_drop]
    omega

theorem rxByte_result {s : State} (b : Byte) (hopen : rxOpen s = true) : ByteResult s (rxByte b s) := by
  obtain hs | hs | hs := rxOpen_eq_true.mp hopen
  · rw [rxByte_awaitDelim b hs]
    split
    · exact .goesOn _ (.inl rfl)
    · exact .fails
  · rw [rxByte_inBody b hs]
    split_ifs
    · exact validate_result s
    · exact .goesOn _ (.inr rfl)
    · exact storeBody_result b s
  · cases hb : unescape b with
    | some x => rw [rxByte_escape_valid hs hb]; exact storeBody_result x s
    | none => rw [rxByte_escape_bad hs hb]; exact .fails

/-! Engine steps -/

theorem rxTakeStep_cases (s : State) : rxTakeStep s = s ∨ ∃ b q, s.phase = .rx ∧ rxOpen s = true ∧
    s.rxQueue = b :: q ∧ rxTakeStep s = rxByte b (dequeued 1 q s) := by
  unfold rxTakeStep
  split
  · exact .inl rfl
  · rename_i b q hq
    split
    · rename_i henabled
      exact .inr ⟨b, q, henabled.left, henabled.right, hq, rfl⟩
    · exact .inl rfl

/-- A Tick does nothing, counts one, or ends the send or the receive that it is the last Tick of (70 R730). -/
theorem tickStep_cases (s : State) : tickStep s = s ∨
    (s.phase = .settle ∧ s.tmr + 1 ≠ settleTime s ∧
      tickStep s = { s with tmr := s.tmr + 1, epoch := s.epoch + 1 }) ∨
    (s.phase = .settle ∧ tickStep s = finishSend .ok { s with tmr := s.tmr + 1, epoch := s.epoch + 1 }) ∨
    (s.phase = .rx ∧ ¬ (s.params.tRx < s.tmr + 1 ∧ rxOpen s = true) ∧
      tickStep s = { s with tmr := s.tmr + 1, epoch := s.epoch + 1 }) ∨
    (s.phase = .rx ∧ tickStep s = failReceive .timeout { s with tmr := s.tmr + 1, epoch := s.epoch + 1 }) := by
  by_cases hsettle : s.phase = .settle
  · rw [tickStep_settle hsettle]
    by_cases hlast : s.tmr + 1 = settleTime s
    · exact .inr (.inr (.inl ⟨hsettle, if_pos hlast⟩))
    · exact .inr (.inl ⟨hsettle, hlast, if_neg hlast⟩)
  by_cases hrx : s.phase = .rx
  · rw [tickStep_rx hrx]
    by_cases hlate : s.params.tRx < s.tmr + 1 ∧ rxOpen s = true
    · exact .inr (.inr (.inr (.inr ⟨hrx, if_pos hlate⟩)))
    · exact .inr (.inr (.inr (.inl ⟨hrx, hlate, if_neg hlate⟩)))
  left
  unfold tickStep
  split
  · exact absurd ‹_› hsettle
  · exact absurd ‹_› hrx
  all_goals rfl

theorem busDoneStep_cases (status : Byte) (s : State) : busDoneStep status s = s ∨ (s.phase = .busWr ∧
    (busDoneStep status s = finishSend .protocol { newEpoch s with busReq := none } ∨
      busDoneStep status s = enterSettle { newEpoch s with busReq := none })) := by
  by_cases hphase : s.phase = .busWr
  · refine .inr ⟨hphase, ?_⟩
    by_cases hstatus : status = 0
    · exact .inr (hstatus ▸ busDoneStep_ok hphase)
    · exact .inl (busDoneStep_error hphase hstatus)
  · exact .inl (busDoneStep_not_busWr status hphase)

/-- A delivery ends the read with at most N accepted bytes, or with PROTOCOL or DATALEN (41 R472 to R478). -/
theorem busDataStep_cases (d : List Byte) (s : State) : busDataStep d s = s ∨ (s.phase = .busRd ∧
    ((∃ l : List Byte, l.length ≤ s.latch.n.toNat ∧
        busDataStep d s = finishReceived l { newEpoch s with busReq := none }) ∨
      ∃ c, (c = .protocol ∨ c = .dataLen) ∧ busDataStep d s = finishEmpty c { newEpoch s with busReq := none })) := by
  by_cases hphase : s.phase = .busRd
  case neg => exact .inl (busDataStep_not_busRd d hphase)
  refine .inr ⟨hphase, ?_⟩
  by_cases hok : (scanDelivery s.latch.n.toNat s.latch.trunc d).cls = .ok
  · refine .inl ⟨_, ?_, busDataStep_accepted hphase hok⟩
    rw [scanDelivery_ne_nil (ne_nil_of_scanDelivery_ok hok)]
    exact scanTriples_length (Nat.zero_le _)
  · refine .inr ⟨_, ?_, busDataStep_rejected hphase hok⟩
    by_cases hd : d = []
    · exact .inl (by rw [hd]; rfl)
    · rw [scanDelivery_ne_nil hd] at hok ⊢
      exact (scanTriples_class _ _ d []).resolve_left hok

end Sys2Proof.Machine
end

section
/-! PROOFS. The block's invariant (10_state.md sections 2 to 4): it holds at reset, and every step keeps it. Its clauses
stand in three parts: what the buffers hold, what RESULT holds, and what the phase promises. -/

namespace Sys2Proof.Machine

/-! The three parts of the invariant -/

/-- The clauses of the invariant about the buffers and their length registers. -/
structure BuffersInv (p : Params) (m : Memory) (wb ib rb : Count) : Prop where
  memWf : Memory.wf m
  memIn : InWindows p m
  wbLen : wb.toNat ≤ p.wbCap
  ibLen : ib.toNat ≤ p.ibCap.val
  rbLen : rb.toNat ≤ p.rbCap
  wbWritten : Written m .wb wb.toNat
  ibWritten : Written m .ib ib.toNat
  rbWritten : Written m .rb rb.toNat

/-- The clauses of the invariant about RESULT and PRIM_OUT. -/
structure ResultInv (r : Result) (o : PrimOut) : Prop where
  noCmdState : r.cls ≠ .cmdState
  devZero : r.cls ≠ .devStatus → r.devCode = 0 ∧ r.devErr = false
  primCnt : o.cnt ≠ 3

/-- The clauses of the invariant about the running command, phase by phase. -/
def PhaseInv (s : State) : Prop :=
  match s.phase with
  | .idle => s.busReq = none
  | .tx => s.done = false ∧ s.busReq = none ∧ s.latch.op = 0x2 ∧ s.xport = .stream ∧ s.txi < s.wbLen.toNat
  | .settle => s.done = false ∧ s.busReq = none ∧ s.tmr < settleTime s ∧
      (s.latch.op = 0x2 ∧ s.xport = .stream ∨ s.latch.op = 0x6 ∧ s.xport = .bus)
  | .rx => s.done = false ∧ s.busReq = none ∧ s.latch.op = 0x3 ∧ s.xport = .stream ∧ rxOpen s = true ∧
      s.tmr ≤ s.params.tRx ∧ s.latch.n.toNat ≤ s.params.ibCap.val
  | .busWr => s.done = false ∧ s.busReq = some (sentRequest s) ∧ s.latch.op = 0x6 ∧ s.xport = .bus
  | .busRd => s.done = false ∧ s.busReq = some (readRequest s) ∧ s.latch.op = 0x7 ∧ s.xport = .bus ∧
      s.latch.n.toNat ≤ s.params.ibCap.val

theorem phaseInv_iff {s : State} : PhaseInv s ↔
    (s.phase ≠ .idle → s.done = false) ∧
    (s.phase = .tx → s.latch.op = 0x2 ∧ s.xport = .stream ∧ s.txi < s.wbLen.toNat) ∧
    (s.phase = .settle → s.tmr < settleTime s ∧
      (s.latch.op = 0x2 ∧ s.xport = .stream ∨ s.latch.op = 0x6 ∧ s.xport = .bus)) ∧
    (s.phase = .rx → s.latch.op = 0x3 ∧ s.xport = .stream ∧ rxOpen s = true ∧ s.tmr ≤ s.params.tRx ∧
      s.latch.n.toNat ≤ s.params.ibCap.val) ∧
    (s.phase = .busWr → s.latch.op = 0x6 ∧ s.xport = .bus ∧ s.busReq = some (sentRequest s)) ∧
    (s.phase = .busRd → s.latch.op = 0x7 ∧ s.xport = .bus ∧ s.busReq = some (readRequest s) ∧
      s.latch.n.toNat ≤ s.params.ibCap.val) ∧
    (s.phase ≠ .busWr → s.phase ≠ .busRd → s.busReq = none) := by
  unfold PhaseInv
  cases hphase : s.phase <;> simp <;> tauto

/-- The invariant is its three parts. -/
theorem blockInv_iff {s : State} : BlockInv s ↔ BuffersInv s.params s.mem s.wbLen s.ibLen s.rbLen ∧
    ResultInv s.result s.primOut ∧ PhaseInv s := by
  constructor
  · intro h
    exact ⟨⟨h.memWf, h.memIn, h.wbLen, h.ibLen, h.rbLen, h.wbWritten, h.ibWritten, h.rbWritten⟩,
      ⟨h.noCmdState, h.devZero, h.primCnt⟩,
      phaseInv_iff.mpr ⟨h.busyNotDone, h.inTx, h.inSettle, h.inRx, h.inBusWr, h.inBusRd, h.noReq⟩⟩
  · rintro ⟨hbuf, hres, hphase⟩
    obtain ⟨hdone, htx, hsettle, hrx, hwr, hrd, hreq⟩ := phaseInv_iff.mp hphase
    exact ⟨hbuf.memWf, hbuf.memIn, hbuf.wbLen, hbuf.ibLen, hbuf.rbLen, hbuf.wbWritten, hbuf.ibWritten,
      hbuf.rbWritten, hdone, htx, hsettle, hrx, hwr, hrd, hreq, hres.noCmdState, hres.devZero, hres.primCnt⟩

/-! Stores keep the buffers' part -/

theorem InWindows.write {p : Params} {m : Memory} {b : Buf} {i : Nat} (h : InWindows p m) (hi : i < b.cap p)
    (x : Byte) : InWindows p (m.write (b.addr i) x) := by
  intro c hc
  obtain hc | rfl := Memory.mem_write hc
  · exact h c hc
  · exact ⟨b, i, hi, rfl⟩

theorem InWindows.writeFrom {p : Params} {m : Memory} {b : Buf} {l : List Byte} (h : InWindows p m)
    (hl : l.length ≤ b.cap p) : InWindows p (m.writeFrom b 0 l) := by
  intro c hc
  obtain hc | ⟨k, hk, hc⟩ := Memory.mem_writeFrom hc
  · exact h c hc
  · exact ⟨b, k, hk.trans_le hl, by rw [hc, Nat.zero_add]⟩

section
variable {p : Params} {m : Memory} {wb ib rb : Count}

theorem BuffersInv.empty (p : Params) : BuffersInv p [] 0 0 0 :=
  ⟨List.Pairwise.nil, nofun, Nat.zero_le _, Nat.zero_le _, Nat.zero_le _, nofun, nofun, nofun⟩

theorem BuffersInv.write {b : Buf} {i : Nat} (h : BuffersInv p m wb ib rb) (hi : i < b.cap p) (x : Byte) :
    BuffersInv p (m.write (b.addr i) x) wb ib rb :=
  { h with
    memWf := Memory.write_wf _ x h.memWf
    memIn := h.memIn.write hi x
    wbWritten := fun k hk => Memory.isSome_write (h.wbWritten k hk)
    ibWritten := fun k hk => Memory.isSome_write (h.ibWritten k hk)
    rbWritten := fun k hk => Memory.isSome_write (h.rbWritten k hk) }

theorem BuffersInv.writeFrom {b : Buf} {l : List Byte} (h : BuffersInv p m wb ib rb) (hl : l.length ≤ b.cap p) :
    BuffersInv p (m.writeFrom b 0 l) wb ib rb :=
  { h with
    memWf := Memory.writeFrom_wf b 0 l h.memWf
    memIn := h.memIn.writeFrom hl
    wbWritten := fun k hk => Memory.isSome_writeFrom (h.wbWritten k hk)
    ibWritten := fun k hk => Memory.isSome_writeFrom (h.ibWritten k hk)
    rbWritten := fun k hk => Memory.isSome_writeFrom (h.rbWritten k hk) }

/-- The bytes of a list at the start of a buffer are written, as many as a length register counts. -/
theorem written_writeFrom (m : Memory) (b : Buf) (l : List Byte) : Written (m.writeFrom b 0 l) b l.length := by
  intro k hk
  have hread := Memory.read_writeFrom (m := m) (b := b) (i := 0) hk
  rw [Nat.zero_add] at hread
  rw [hread]
  rfl

/-- A capacity fits the length registers. -/
theorem toNat_ofNat_of_le_cap {b : Buf} {n : Nat} (h : n ≤ b.cap p) : (BitVec.ofNat 16 n).toNat = n := by
  have hcap := b.cap_le p
  rw [BitVec.toNat_ofNat]
  omega

theorem BuffersInv.encoded {l : List Byte} (h : BuffersInv p m wb ib rb) (hl : l.length ≤ p.wbCap) :
    BuffersInv p (m.writeFrom .wb 0 l) (BitVec.ofNat 16 l.length) ib rb := by
  have hlen : (BitVec.ofNat 16 l.length).toNat = l.length := toNat_ofNat_of_le_cap (b := .wb) hl
  exact { h.writeFrom (b := .wb) hl with
    wbLen := hlen.trans_le hl, wbWritten := by rw [hlen]; exact written_writeFrom m .wb l }

theorem BuffersInv.received {l : List Byte} (h : BuffersInv p m wb ib rb) (hl : l.length ≤ p.ibCap.val) :
    BuffersInv p (m.writeFrom .ib 0 l) wb (BitVec.ofNat 16 l.length) rb := by
  have hlen : (BitVec.ofNat 16 l.length).toNat = l.length := toNat_ofNat_of_le_cap (b := .ib) hl
  exact { h.writeFrom (b := .ib) hl with
    ibLen := hlen.trans_le hl, ibWritten := by rw [hlen]; exact written_writeFrom m .ib l }

/-- The next raw byte is stored just beyond RB_LEN, which then counts it. -/
theorem BuffersInv.stored (h : BuffersInv p m wb ib rb) (hroom : rb.toNat ≠ p.rbCap) (x : Byte) :
    BuffersInv p (m.write (Buf.rb.addr rb.toNat) x) wb ib (rb + 1) := by
  have hlt : rb.toNat < p.rbCap := lt_of_le_of_ne h.rbLen hroom
  have hcap : p.rbCap ≤ 2048 := Buf.cap_le p .rb
  have hlen : (rb + 1).toNat = rb.toNat + 1 := by rw [BitVec.toNat_add]; simp; omega
  refine { h.write (b := .rb) hlt x with rbLen := hlen ▸ hlt, rbWritten := fun k hk => ?_ }
  rw [hlen] at hk
  obtain hk | rfl := Nat.lt_succ_iff_lt_or_eq.mp hk
  · exact Memory.isSome_write (h.rbWritten k hk)
  · rw [Memory.read_write_same]; rfl

theorem BuffersInv.consumed (h : BuffersInv p m wb ib rb) : BuffersInv p m 0 ib rb :=
  { h with wbLen := Nat.zero_le _, wbWritten := nofun }

theorem BuffersInv.emptied (h : BuffersInv p m wb ib rb) : BuffersInv p m wb 0 rb :=
  { h with ibLen := Nat.zero_le _, ibWritten := nofun }

theorem BuffersInv.restarted (h : BuffersInv p m wb ib rb) : BuffersInv p m wb ib 0 :=
  { h with rbLen := Nat.zero_le _, rbWritten := nofun }

end

/-! Results and phases -/

/-- `finish(c)` writes no device fields, and CMDSTATE is none of the block's classes (60 R603, R610). -/
theorem ResultInv.plain {r : Result} {o : PrimOut} {c : ResultClass} (h : ResultInv r o) (hc : c ≠ .cmdState) :
    ResultInv { cls := c, devCode := 0, devErr := false } o :=
  ⟨hc, fun _ => ⟨rfl, rfl⟩, h.primCnt⟩

theorem ResultInv.device {r : Result} {o : PrimOut} (h : ResultInv r o) (code : BitVec 7) (err : Bool) :
    ResultInv { cls := .devStatus, devCode := code, devErr := err } o :=
  ⟨nofun, fun hdev => absurd rfl hdev, h.primCnt⟩

theorem PhaseInv.idle {s : State} (hphase : s.phase = .idle) (hreq : s.busReq = none) : PhaseInv s := by
  rwa [PhaseInv, hphase]

theorem PhaseInv.settle {s : State} (hphase : s.phase = .settle) (hdone : s.done = false) (hreq : s.busReq = none)
    (htmr : s.tmr < settleTime s)
    (hlatch : s.latch.op = 0x2 ∧ s.xport = .stream ∨ s.latch.op = 0x6 ∧ s.xport = .bus) : PhaseInv s := by
  rw [PhaseInv, hphase]
  exact ⟨hdone, hreq, htmr, hlatch⟩

theorem PhaseInv.rx {s : State} (hphase : s.phase = .rx) (hdone : s.done = false) (hreq : s.busReq = none)
    (hop : s.latch.op = 0x3) (hx : s.xport = .stream) (hopen : rxOpen s = true) (htmr : s.tmr ≤ s.params.tRx)
    (hn : s.latch.n.toNat ≤ s.params.ibCap.val) : PhaseInv s := by
  rw [PhaseInv, hphase]
  exact ⟨hdone, hreq, hop, hx, hopen, htmr, hn⟩

theorem PhaseInv.busReq_none {s : State} (h : PhaseInv s) (hwr : s.phase ≠ .busWr) (hrd : s.phase ≠ .busRd) :
    s.busReq = none := by
  obtain ⟨-, -, -, -, -, -, hreq⟩ := phaseInv_iff.mp h
  exact hreq hwr hrd

/-- WB's first WB_LEN bytes are written, so what is to be sent does not depend on the epoch. -/
theorem wireBytes_congr {s t : State} (h : Written s.mem .wb s.wbLen.toNat) (hmem : t.mem = s.mem)
    (hlen : t.wbLen = s.wbLen) : wireBytes t = wireBytes s := by
  rw [wireBytes, hlen]
  exact bytesFrom_written hmem fun k hk => by rw [Nat.zero_add]; exact h k hk

/-- The invariant speaks of none of these fields. -/
theorem BlockInv.frame {s t : State} (h : BlockInv s) (ht : t = { s with
    rej := t.rej, lead := t.lead, subc := t.subc, regAddr := t.regAddr, pbLen := t.pbLen, primIn0 := t.primIn0,
    primIn1 := t.primIn1, hostData := t.hostData, inputs := t.inputs, inputCount := t.inputCount,
    rxQueue := t.rxQueue, epoch := t.epoch }) : BlockInv t := by
  obtain ⟨hbuf, hres, hphase⟩ := blockInv_iff.mp h
  have hwire : wireBytes t = wireBytes s := wireBytes_congr h.wbWritten (by rw [ht]) (by rw [ht])
  rw [ht] at hwire ⊢
  refine blockInv_iff.mpr ⟨hbuf, hres, ?_⟩
  unfold PhaseInv sentRequest at hphase ⊢
  rw [hwire]
  exact hphase

/-- A command that ends leaves the block idle with no request pending. -/
theorem BlockInv.ended {r : Result} {s : State} (hbuf : BuffersInv s.params s.mem s.wbLen s.ibLen s.rbLen)
    (hres : ResultInv r s.primOut) (hreq : s.busReq = none) : BlockInv (finishWith r s) :=
  blockInv_iff.mpr ⟨hbuf, hres, .idle rfl hreq⟩

/-! Commands keep the invariant -/

theorem stuffOut_cnt (b : Byte) : (stuffOut b).cnt ≠ 3 := by
  obtain ⟨-, hstuff⟩ | ⟨-, hstuff⟩ := stuff_cases b <;> rw [stuffOut, hstuff] <;> exact nofun

theorem unstuffResult_cnt (b0 b1 : Byte) : (unstuffResult b0 b1).2.cnt ≠ 3 := by
  unfold unstuffResult
  repeat' split
  all_goals exact nofun

/-- UNSTUFF ends with OK or PROTOCOL (42 R501). -/
theorem unstuffResult_class (b0 b1 : Byte) :
    (unstuffResult b0 b1).1 = .ok ∨ (unstuffResult b0 b1).1 = .protocol := by
  unfold unstuffResult
  repeat' split
  all_goals simp

theorem blockInv_exec {i : Instr} {s t : State} (h : BlockInv s) (hidle : s.phase = .idle)
    (hexec : exec i s = .next t) : BlockInv t := by
  obtain ⟨hbuf, hres, hphase⟩ := blockInv_iff.mp h
  have hreq : s.busReq = none := hphase.busReq_none (hidle.trans_ne nofun) (hidle.trans_ne nofun)
  have hwbpos : s.wbLen ≠ 0 → 0 < s.wbLen.toNat := fun hne => 
    Nat.pos_of_ne_zero fun h0 => hne (BitVec.eq_of_toNat_eq h0)
  cases exec_result hexec with
  | param => exact .ended hbuf (hres.plain nofun) hreq
  | sEncode sub l hfits => exact .ended (hbuf.encoded hfits) (hres.plain nofun) hreq
  | bEncode l hfits => exact .ended (hbuf.encoded hfits) (hres.plain nofun) hreq
  | sSend long hx hwb => exact blockInv_iff.mpr ⟨hbuf, hres, rfl, hreq, rfl, hx, hwbpos hwb⟩
  | sRecv n hx hn => exact blockInv_iff.mpr ⟨hbuf.restarted, hres, rfl, hreq, rfl, hx, rfl, Nat.zero_le _, hn⟩
  | bSend long hx hwb => exact blockInv_iff.mpr ⟨hbuf, hres, rfl, rfl, rfl, hx⟩
  | bRecv trunc n hx hn => exact blockInv_iff.mpr ⟨hbuf, hres, rfl, rfl, rfl, hx, hn⟩
  | stuff => exact .ended hbuf ⟨nofun, fun _ => ⟨rfl, rfl⟩, stuffOut_cnt _⟩ hreq
  | unstuff =>
    refine .ended hbuf ⟨?_, fun _ => ⟨rfl, rfl⟩, unstuffResult_cnt _ _⟩ hreq
    obtain hok | hbad := unstuffResult_class s.primIn0 s.primIn1
    · exact hok.trans_ne nofun
    · exact hbad.trans_ne nofun
  | cksum p => exact .ended hbuf (hres.plain nofun) hreq
  | crc8 p => exact .ended hbuf (hres.plain nofun) hreq

/-! Host writes keep the invariant -/

theorem writeCtrl_frame (v : Word) (s : State) : writeCtrl v s = { s with xport := (writeCtrl v s).xport } := by
  unfold writeCtrl
  split_ifs <;> rfl

theorem blockInv_hostWrite {size : AccessSize} {off : Offset} {v : Word} {s t : State} (h : BlockInv s)
    (ht : react (.hostWrite size off v) s = .next t) : BlockInv t := by
  have hnew : BlockInv (newEpoch s) := h.frame rfl
  obtain ⟨hbuf, hres, hphase⟩ := blockInv_iff.mp h
  have hreq : s.phase = .idle → s.busReq = none := fun hidle =>
    hphase.busReq_none (hidle.trans_ne nofun) (hidle.trans_ne nofun)
  obtain ⟨-, -, rfl | ⟨-, rfl, -⟩ | ⟨-, rfl⟩ | ⟨-, hidle, -, rfl⟩ | ⟨-, hidle, i, -, hexec⟩ | ⟨hidle, -, rfl⟩ |
    ⟨-, -, rfl⟩ | ⟨-, -, rfl⟩ | ⟨-, -, rfl⟩ | ⟨-, -, rfl⟩ | ⟨hidle, j, hj, -, rfl⟩⟩ := hostWrite_cases ht
  · exact hnew
  · exact h.frame rfl
  · rw [clearRej_eq]
    exact h.frame rfl
  · exact .ended hbuf (hres.plain nofun) (hreq hidle)
  · exact blockInv_exec hnew hidle hexec
  · rw [writeCtrl_frame]
    exact blockInv_iff.mpr ⟨hbuf, hres, .idle hidle (hreq hidle)⟩
  · exact h.frame rfl
  · exact h.frame rfl
  · exact h.frame rfl
  · exact h.frame rfl
  · exact blockInv_iff.mpr ⟨hbuf.write (b := .pb) hj _, hres, .idle hidle (hreq hidle)⟩

/-! Engine steps keep the invariant -/

/-- The end of a send leaves WB consumed; its settle delay runs under the same latch. -/
theorem blockInv_enterSettle {s : State} (hbuf : BuffersInv s.params s.mem s.wbLen s.ibLen s.rbLen)
    (hres : ResultInv s.result s.primOut) (hdone : s.done = false) (hreq : s.busReq = none)
    (hlatch : s.latch.op = 0x2 ∧ s.xport = .stream ∨ s.latch.op = 0x6 ∧ s.xport = .bus) :
    BlockInv (enterSettle s) := by
  obtain ⟨hT, henter⟩ | ⟨-, henter⟩ := enterSettle_cases s <;> rw [henter]
  · exact blockInv_iff.mpr ⟨hbuf, hres, hdone, hreq, Nat.pos_of_ne_zero hT, hlatch⟩
  · exact .ended hbuf.consumed (hres.plain nofun) hreq

theorem blockInv_txAcceptStep {s : State} (h : BlockInv s) : BlockInv (txAcceptStep s) := by
  by_cases htx : s.phase = .tx
  case neg => rwa [txAcceptStep_not_tx htx]
  obtain ⟨hbuf, hres, hphase⟩ := blockInv_iff.mp h
  rw [PhaseInv, htx] at hphase
  obtain ⟨hdone, hreq, hop, hx, htxi⟩ := hphase
  rw [txAcceptStep_tx htx]
  split
  · exact blockInv_enterSettle hbuf hres hdone hreq (.inl ⟨hop, hx⟩)
  · refine blockInv_iff.mpr ⟨hbuf, hres, ?_⟩
    rw [PhaseInv, show (takeOffered s).phase = .tx from htx]
    exact ⟨hdone, hreq, hop, hx, lt_of_le_of_ne htxi ‹_›⟩

/-- The bytes of RB stay within its capacity, and a payload that is accepted has EXP bytes, which fit IB. -/
theorem blockInv_rxByte {s : State} (h : BlockInv s) (hrx : s.phase = .rx) (b : Byte) : BlockInv (rxByte b s) := by
  obtain ⟨hbuf, hres, hphase⟩ := blockInv_iff.mp h
  rw [PhaseInv, hrx] at hphase
  obtain ⟨hdone, hreq, hop, hx, hopen, htmr, hn⟩ := hphase
  have hbyte := rxByte_result b hopen
  generalize rxByte b s = t at hbyte ⊢
  cases hbyte with
  | goesOn r hr =>
    exact blockInv_iff.mpr ⟨hbuf, hres, PhaseInv.rx hrx hdone hreq hop hx (rxOpen_eq_true.mpr (.inr hr)) htmr hn⟩
  | stores x hroom =>
    exact blockInv_iff.mpr ⟨hbuf.stored hroom x, hres, PhaseInv.rx hrx hdone hreq hop hx rfl htmr hn⟩
  | fails => exact .ended hbuf.emptied (hres.plain nofun) hreq
  | rejected c hc => exact .ended hbuf.emptied (hres.plain (by obtain rfl | rfl := hc <;> exact nofun)) hreq
  | device status => exact .ended hbuf.emptied (hres.device _ _) hreq
  | received l hl => exact .ended (hbuf.received (hl.trans_le hn)) (hres.plain nofun) hreq

theorem blockInv_rxTakeStep {s : State} (h : BlockInv s) : BlockInv (rxTakeStep s) := by
  obtain hkeep | ⟨b, q, hrx, -, -, htake⟩ := rxTakeStep_cases s
  · rwa [hkeep]
  · rw [htake]
    exact blockInv_rxByte (h.frame (t := dequeued 1 q s) rfl) hrx b

theorem blockInv_tickStep {s : State} (h : BlockInv s) : BlockInv (tickStep s) := by
  obtain ⟨hbuf, hres, hphase⟩ := blockInv_iff.mp h
  obtain hkeep | ⟨hsettle, hmore, ht⟩ | ⟨hsettle, ht⟩ | ⟨hrx, hmore, ht⟩ | ⟨hrx, ht⟩ := tickStep_cases s
  · rwa [hkeep]
  · rw [PhaseInv, hsettle] at hphase
    obtain ⟨hdone, hreq, htmr, hlatch⟩ := hphase
    rw [ht]
    exact blockInv_iff.mpr ⟨hbuf, hres, PhaseInv.settle hsettle hdone hreq (lt_of_le_of_ne htmr hmore) hlatch⟩
  · rw [ht]
    exact .ended hbuf.consumed (hres.plain nofun) (hphase.busReq_none (hsettle.trans_ne nofun) (hsettle.trans_ne nofun))
  · rw [PhaseInv, hrx] at hphase
    obtain ⟨hdone, hreq, hop, hx, hopen, -, hn⟩ := hphase
    rw [ht]
    exact blockInv_iff.mpr ⟨hbuf, hres,
      PhaseInv.rx hrx hdone hreq hop hx hopen (Nat.not_lt.mp fun hlate => hmore ⟨hlate, hopen⟩) hn⟩
  · rw [ht]
    exact .ended hbuf.emptied (hres.plain nofun) (hphase.busReq_none (hrx.trans_ne nofun) (hrx.trans_ne nofun))

theorem blockInv_busDoneStep {s : State} (h : BlockInv s) (status : Byte) : BlockInv (busDoneStep status s) := by
  obtain ⟨hbuf, hres, hphase⟩ := blockInv_iff.mp h
  obtain hkeep | ⟨hwr, ht | ht⟩ := busDoneStep_cases status s <;> rw [‹busDoneStep status s = _›]
  · exact h
  · exact .ended hbuf.consumed (hres.plain nofun) rfl
  · rw [PhaseInv, hwr] at hphase
    obtain ⟨hdone, -, hop, hx⟩ := hphase
    exact blockInv_enterSettle hbuf hres hdone rfl (.inr ⟨hop, hx⟩)

theorem blockInv_busDataStep {s : State} (h : BlockInv s) (d : List Byte) : BlockInv (busDataStep d s) := by
  obtain ⟨hbuf, hres, hphase⟩ := blockInv_iff.mp h
  obtain hkeep | ⟨hrd, ⟨l, hl, ht⟩ | ⟨c, hc, ht⟩⟩ := busDataStep_cases d s
  · rwa [hkeep]
  · rw [PhaseInv, hrd] at hphase
    obtain ⟨-, -, -, -, hn⟩ := hphase
    rw [ht]
    exact .ended (hbuf.received (hl.trans hn)) (hres.plain nofun) rfl
  · rw [ht]
    exact .ended hbuf.emptied (hres.plain (by obtain rfl | rfl := hc <;> exact nofun)) rfl

/-! Reset, and every step -/

/-- Settles O18: the buffers are empty, RESULT is OK, and no command runs. -/
theorem invariantAtReset : Obligations.InvariantAtReset :=
  blockInv_iff.mpr ⟨.empty _, ⟨nofun, fun _ => ⟨rfl, rfl⟩, nofun⟩, rfl⟩

theorem blockInv_resetStep (s : State) : BlockInv (resetStep s) :=
  blockInv_iff.mpr ⟨.empty _, ⟨nofun, fun _ => ⟨rfl, rfl⟩, nofun⟩, rfl⟩

theorem blockInv_react {i : Input} {s t : State} (h : BlockInv s) (ht : react i s = .next t) : BlockInv t := by
  cases i with
  | hostRead size off => rw [hostRead_cases ht]; exact h.frame rfl
  | hostWrite size off v => exact blockInv_hostWrite h ht
  | txAccept => cases ht; exact blockInv_txAcceptStep h
  | rxArrive b => cases ht; exact h.frame rfl
  | rxTake => cases ht; exact blockInv_rxTakeStep h
  | busDone status => cases ht; exact blockInv_busDoneStep h status
  | busData d => cases ht; exact blockInv_busDataStep h d
  | tick => cases ht; exact blockInv_tickStep h
  | reset => cases ht; exact blockInv_resetStep s

theorem blockInv_takeInput {s : State} (h : BlockInv s) : BlockInv (takeInput s) := by
  unfold takeInput
  split <;> exact h.frame rfl

/-- Settles O19: taking the input changes no field of the invariant, and each input's answer keeps its three parts. -/
theorem invariantKept : Obligations.InvariantKept :=
  fun _ _ h ht => blockInv_react (blockInv_takeInput h) ht

end Sys2Proof.Machine
end

section
/-! PROOFS. The register-bus codec (41_bus_codec.md): what the CRC-8 detects (R450), the transaction that B_ENCODE
builds (R452), the acceptance of B_SEND and B_RECV (R460, R470), and the scan of the delivered triples (R473 to R477). -/

namespace Sys2Proof.Machine

/-! The CRC-8, R450 -/

/-- The polynomial's low bit is 1, so the new low bit tells whether the polynomial was added (R450). -/
theorem crcBit_injective : Function.Injective crcBit := by
  intro c d h
  have hbit : ∀ x : Byte, crcBit x = x <<< 1 ^^^ if x.getLsbD 7 then crcPoly else 0 := by
    intro x
    unfold crcBit
    split <;> simp
  have hlow : ∀ x : Byte, (crcBit x).getLsbD 0 = x.getLsbD 7 := by
    intro x
    rw [hbit, BitVec.getLsbD_xor, BitVec.getLsbD_shiftLeft]
    cases x.getLsbD 7 <;> rfl
  have htop : c.getLsbD 7 = d.getLsbD 7 := by rw [← hlow, h, hlow]
  have hshift : c <<< 1 = d <<< 1 := by
    rw [hbit, hbit, htop] at h
    exact (BitVec.xor_left_inj _).mp h
  apply BitVec.eq_of_getLsbD_eq
  intro i hi
  obtain rfl | hi7 := Nat.lt_succ_iff_lt_or_eq.mp hi |>.symm
  · exact htop
  · have hi := congrArg (BitVec.getLsbD · (i + 1)) hshift
    simpa only [BitVec.getLsbD_shiftLeft, show i + 1 < 8 by omega, show ¬ i + 1 < 1 by omega, decide_true, decide_false,
      Bool.not_false, Bool.true_and, Nat.add_sub_cancel] using hi

theorem repeat_injective {α : Type} {f : α → α} (h : Function.Injective f) (n : Nat) :
    Function.Injective (Nat.repeat f n) := by
  induction n with
  | zero => exact Function.injective_id
  | succ n ih => exact h.comp ih

/-- A byte step of the CRC-8 tells apart both its register and its byte. -/
theorem crcByte_inj_left {c d b : Byte} : crcByte c b = crcByte d b ↔ c = d := by
  rw [crcByte, crcByte, (repeat_injective crcBit_injective 8).eq_iff, BitVec.xor_left_inj]

theorem crcByte_inj_right {c a b : Byte} : crcByte c a = crcByte c b ↔ a = b := by
  rw [crcByte, crcByte, (repeat_injective crcBit_injective 8).eq_iff, BitVec.xor_right_inj]

theorem foldl_crcByte_injective (l : List Byte) : Function.Injective (l.foldl crcByte) := by
  induction l with
  | nil => exact Function.injective_id
  | cons b l ih => exact fun c d h => crcByte_inj_left.mp (ih h)

/-- Settles O50: the byte that differs makes the registers differ, and equal bytes after it keep them so. -/
theorem crcDetectsOneByteChange : Obligations.CrcDetectsOneByteChange := by
  intro l r b c hne h
  rw [crc8, crc8, List.foldl_append, List.foldl_append] at h
  exact hne (crcByte_inj_right.mp (foldl_crcByte_injective r h))

/-! The scan of the delivered triples, R473 to R477 -/

/-- No pair of the payload is the terminator of truncation mode (R474). -/
def NoZeroPair (p : List Byte) : Prop := ∀ k (h : 2 * k + 1 < p.length), ¬ (p[2 * k] = 0 ∧ p[2 * k + 1] = 0)

theorem NoZeroPair.head {a b : Byte} {p : List Byte} (h : NoZeroPair (a :: b :: p)) : ¬ (a = 0 ∧ b = 0) :=
  h 0 (by simp)

theorem NoZeroPair.tail {a b : Byte} {p : List Byte} (h : NoZeroPair (a :: b :: p)) : NoZeroPair p :=
  fun k hk => h (k + 1) (by simp only [List.length_cons]; omega)

/-- A correct triple that is no terminator is accepted while N is not exceeded, and ends the scan with
DATALEN beyond. -/
theorem scanTriples_pair {n : Nat} {trunc : Bool} {a b : Byte} (rest acc : List Byte)
    (hzero : trunc = true → ¬ (a = 0 ∧ b = 0)) : scanTriples n trunc (a :: b :: crc8 [a, b] :: rest) acc =
    if n < acc.length + 2 then { cls := .dataLen, data := [] } else scanTriples n trunc rest (acc ++ [a, b]) := by
  have hstop : ¬ ((trunc && decide (a = 0x00) && decide (b = 0x00)) = true) := by simpa [and_assoc] using hzero
  rw [scanTriples, if_neg (not_not_intro rfl), if_neg hstop]

/-- The protected pairs of a payload that fits are accepted, and the scan goes on behind them. -/
theorem scanTriples_crcPairs {n : Nat} {trunc : Bool} (p rest acc : List Byte) (heven : p.length % 2 = 0)
    (hfits : acc.length + p.length ≤ n) (hzero : trunc = true → NoZeroPair p) :
    scanTriples n trunc (crcPairs p ++ rest) acc = scanTriples n trunc rest (acc ++ p) := by
  induction p using List.twoStepInduction generalizing acc with
  | nil => simp [crcPairs]
  | singleton a => simp at heven
  | cons_cons a b p ih _ =>
    simp only [List.length_cons] at heven hfits
    have hrest : (acc ++ [a, b]).length + p.length ≤ n := by simp; omega
    simp only [crcPairs, List.cons_append]
    rw [scanTriples_pair _ _ fun ht => (hzero ht).head, if_neg (by omega),
      ih _ (by omega) hrest fun ht => (hzero ht).tail, List.append_assoc]
    rfl

/-- The protected pairs of a payload longer than N end the scan with DATALEN (R477), whatever follows. -/
theorem scanTriples_crcPairs_long {n : Nat} {trunc : Bool} (p rest acc : List Byte) (heven : p.length % 2 = 0)
    (hacc : acc.length ≤ n) (hlong : n < acc.length + p.length) (hzero : trunc = true → NoZeroPair p) :
    scanTriples n trunc (crcPairs p ++ rest) acc = { cls := .dataLen, data := [] } := by
  induction p using List.twoStepInduction generalizing acc with
  | nil => simp at hlong; omega
  | singleton a => simp at heven
  | cons_cons a b p ih _ =>
    simp only [List.length_cons] at heven hlong
    simp only [crcPairs, List.cons_append]
    rw [scanTriples_pair _ _ fun ht => (hzero ht).head]
    split
    · rfl
    · exact ih _ (by omega) (by simp; omega) (by simp; omega) fun ht => (hzero ht).tail

theorem crcPairs_ne_nil {p : List Byte} (h : p ≠ []) (heven : p.length % 2 = 0) : crcPairs p ≠ [] := by
  have hpos := List.length_pos_iff.mpr h
  rw [← List.length_pos_iff, crcPairs_length]
  omega

/-- Settles O41: the pairs are accepted, and then nothing is left and the count is N. -/
theorem protectedPairsRoundTrip : Obligations.ProtectedPairsRoundTrip := by
  intro p hp heven
  have hscan := scanTriples_crcPairs (trunc := false) p [] [] heven (Nat.zero_add _).le nofun
  rw [scanDelivery_ne_nil (crcPairs_ne_nil hp heven), ← List.append_nil (crcPairs p), hscan]
  simp [scanTriples]

/-- Settles O42: the pairs before it are accepted, and the wrong CRC is the first check of its triple. -/
theorem crcMismatchIsProtocol : Obligations.CrcMismatchIsProtocol := by
  intro n trunc p rest d0 d1 c heven hfits hzero hcrc
  rw [List.append_assoc, scanDelivery_ne_nil (by simp),
    scanTriples_crcPairs p _ [] heven (by simpa using hfits) hzero]
  simp only [List.cons_append, scanTriples, if_pos hcrc]

theorem crc8_zeroPair : crc8 [0x00, 0x00] = 0x81 := by
  simp [crc8, crcByte, crcInit, crcBit, crcPoly, Nat.repeat]

/-- Settles O43: the pairs before it are accepted, and the terminator comes before the check of the count. -/
theorem truncationStopsAtZeroPair : Obligations.TruncationStopsAtZeroPair := by
  intro n p rest heven hfits hzero
  rw [List.append_assoc, scanDelivery_ne_nil (by simp),
    scanTriples_crcPairs p _ [] heven (by simpa using hfits) fun _ => hzero]
  exact (if_neg (not_not_intro crc8_zeroPair)).trans (if_pos rfl)

/-- What is left behind accepted pairs ends the scan with DATALEN where it is one or two stray bytes, or where the count
is not N (R475, R476). -/
theorem scanTriples_stray {n : Nat} {trunc : Bool} {stray acc : List Byte} (hstray : stray.length ≤ 2)
    (hbad : stray ≠ [] ∨ acc.length ≠ n) : scanTriples n trunc stray acc = { cls := .dataLen, data := [] } := by
  match stray, hstray with
  | [], _ => exact if_neg (hbad.resolve_left (not_not_intro rfl))
  | [_], _ => rfl
  | [_, _], _ => rfl

/-- Settles O44: by whether the pairs exceed N; if they do not, by what is left behind them. -/
theorem wrongCountIsDataLen : Obligations.WrongCountIsDataLen := by
  intro n trunc p stray heven hstray hne hzero hbad
  rw [scanDelivery_ne_nil hne]
  by_cases hlong : n < p.length
  · exact scanTriples_crcPairs_long p stray [] heven (Nat.zero_le n) (by simpa using hlong) hzero
  · rw [scanTriples_crcPairs p stray [] heven (by simpa using hlong) hzero]
    exact scanTriples_stray hstray hbad

/-! The transaction that B_ENCODE builds, R452 -/

/-- Where a payload pair and its CRC-8 stand among the protected pairs (30 R315). -/
theorem crcPairs_getElem? {p : List Byte} {k : Nat} (h : 2 * k + 1 < p.length) :
    (crcPairs p)[3 * k]? = some p[2 * k] ∧ (crcPairs p)[3 * k + 1]? = some p[2 * k + 1] ∧
    (crcPairs p)[3 * k + 2]? = some (crc8 [p[2 * k], p[2 * k + 1]]) := by
  induction p using List.twoStepInduction generalizing k with
  | nil => simp at h
  | singleton a => simp at h
  | cons_cons a b p ih _ =>
    cases k with
    | zero => exact ⟨rfl, rfl, rfl⟩
    | succ k =>
      simp only [List.length_cons] at h
      exact ih (k := k) (by omega)

theorem execBEncode_completes {s : State} {p : List Byte} (hx : s.xport = .bus)
    (hcap : s.pbLen.toNat ≤ s.params.pbCap.val) (heven : s.pbLen.toNat % 2 = 0) (hp : payload s = some p) :
    execBEncode s = .next (finishEncoded (busTransaction s.regAddr p) (latchFields 0x5 false false 0 (accept s))) := by
  simp [execBEncode, hx, payloadTooLong_eq_false.mpr hcap, heven, hp]

theorem read_storeAll_getElem? (s : State) (b : Buf) {l : List Byte} {k : Nat} {v : Byte} (h : l[k]? = some v) :
    (storeAll b l s).mem.read (b.addr k) = some v := by
  obtain ⟨hk, rfl⟩ := List.getElem?_eq_some_iff.mp h
  exact read_storeAll s b l hk

/-- Settles O25: B_ENCODE passes its checks, and its end stores the transaction, which fits WB_LEN, into WB. -/
theorem bEncodeBuildsTransaction : Obligations.BEncodeBuildsTransaction := by
  intro s p hidle hx hcap hlen heven hpb
  have hbytes := busTransaction_length s.regAddr p
  have hread := fun k v => read_storeAll_getElem? (latchFields 0x5 false false 0 (accept s)) .wb
    (l := busTransaction s.regAddr p) (k := k) (v := v)
  refine ⟨_, execBEncode_completes hx hcap (hlen ▸ heven) (payload_some hlen hpb), ?_, hread 0 _ rfl, hread 1 _ rfl,
    fun k hk => ?_, fun a ha => ?_, finishEncoded_frame _ _ hidle⟩
  · rw [finishEncoded_wbLen _ (by have := s.pbLen.isLt; have := s.params.pbCap.isLt; omega), hbytes]
  · obtain ⟨hfirst, hsecond, hcrc⟩ := crcPairs_getElem? hk
    rw [Nat.add_comm 2, Nat.add_comm 3, Nat.add_comm 4]
    exact ⟨hread _ _ hfirst, hread _ _ hsecond, hread _ _ hcrc⟩
  · exact read_storeAll_other _ .wb _ (by rwa [hbytes])

/-! The commands' own checks, and the bus requests, R460, R470 -/

/-- Settles O23: whatever the checks before it answer, they answer PARAM too. -/
theorem ownChecksAreParam : Obligations.OwnChecksAreParam := by
  intro s b hidle
  rw [← finish_param_eq_paramOnly hidle]
  refine ⟨fun hpb => ?_, fun hlong => ?_, fun hodd => ?_, fun hwb => ?_⟩
  · simp only [exec, execSEncode, if_pos hpb, if_true, ite_self]
  · have hmax : 255 < 1 + s.pbLen.toNat := by omega
    simp only [exec, execSEncode, if_pos hmax, Bool.true_eq_false, if_false, ite_self]
  · have hodd : s.pbLen.toNat % 2 ≠ 0 := by omega
    simp only [exec, execBEncode, if_pos hodd, ite_self]
  · have hnothing : nothingEncoded s = true := nothingEncoded_eq_true.mpr hwb
    simp only [exec, execSSend, execBSend, hnothing, if_true, ite_self, and_self]

/-- Settles O30: both commands pass their two checks. -/
theorem busCommandsIssueOneRequest : Obligations.BusCommandsIssueOneRequest := by
  refine ⟨fun s long _ hx hwb => ?_, fun s trunc n _ hx hn => ?_⟩
  · exact (if_neg (not_not_intro hx)).trans (if_neg (mt nothingEncoded_eq_true.mp hwb))
  · exact (if_neg (not_not_intro hx)).trans (if_neg (mt countTooLong_eq_true.mp (Nat.not_lt.mpr hn)))

end Sys2Proof.Machine
end

section
/-! PROOFS. Sending on the stream (40_stream_codec.md section 3): S_SEND's transmission (R412, R414) and its settle delay
(R413). -/

namespace Sys2Proof.Machine

/-! The settle delay, R413 -/

/-- In SETTLE no input but a Tick or reset is enabled; a host access leaves PHASE and TMR. -/
theorem react_settle_keeps {i : Input} {s t : State} (hphase : s.phase = .settle) (h : react i s = .next t)
    (htick : i ≠ .tick) (hreset : i ≠ .reset) : t.phase = s.phase ∧ t.tmr = s.tmr := by
  cases i with
  | hostRead size off => rw [hostRead_cases h]; exact ⟨rfl, rfl⟩
  | hostWrite size off v => rw [hostWrite_busy (hphase.trans_ne nofun) h]; exact ⟨rfl, rfl⟩
  | txAccept => cases h; rw [txAcceptStep_not_tx (hphase.trans_ne nofun)]; exact ⟨rfl, rfl⟩
  | rxArrive b => cases h; exact ⟨rfl, rfl⟩
  | rxTake => cases h; rw [rxTakeStep_not_rx (hphase.trans_ne nofun)]; exact ⟨rfl, rfl⟩
  | busDone status => cases h; rw [busDoneStep_not_busWr status (hphase.trans_ne nofun)]; exact ⟨rfl, rfl⟩
  | busData d => cases h; rw [busDataStep_not_busRd d (hphase.trans_ne nofun)]; exact ⟨rfl, rfl⟩
  | tick => exact absurd rfl htick
  | reset => exact absurd rfl hreset

/-- Settles O29: T - TMR - 1 Ticks count, the next one ends the send, and no other input is enabled. -/
theorem settleDelayLastsT : Obligations.SettleDelayLastsT := by
  intro s hphase htmr
  refine ⟨fun k hk => ?_, ⟨_, rfl, ?_⟩, fun i t h htick hreset => hphase ▸ react_settle_keeps hphase h htick hreset⟩
  · rw [tickStep_iterate_settle hphase (by omega)]
    exact ⟨hphase, rfl, rfl, rfl⟩
  · rw [tickStep_iterate_settle_ends hphase htmr]
    rfl

/-! The transmission, R412, R414 -/

/-- The state in which S_SEND offers the first byte of WB (R412). -/
def sending (long : Bool) (s : State) : State :=
  { s with done := false, phase := .tx, txi := 0, latch := { op := 0x2, long := long, trunc := false, n := 0 } }

/-- S_SEND passes both its checks. -/
theorem execSSend_starts {s : State} (long : Bool) (hx : s.xport = .stream) (hwb : s.wbLen ≠ 0) :
    execSSend long s = .next (sending long s) :=
  (if_neg (not_not_intro hx)).trans (if_neg (mt nothingEncoded_eq_true.mp hwb))

/-- The state after the transport has accepted the bytes of `l`. -/
def transmitted (l : List Byte) (s : State) : State :=
  { s with txWire := s.txWire ++ l, txi := s.txi + l.length, epoch := s.epoch + l.length }

theorem wireBytes_length (s : State) : (wireBytes s).length = s.wbLen.toNat :=
  bytesFrom_length s .wb 0 _

theorem transmitted_txi {s : State} {k : Nat} (htxi : s.txi = 0) (hk : k ≤ s.wbLen.toNat) :
    (transmitted ((wireBytes s).take k) s).txi = k := by
  change s.txi + ((wireBytes s).take k).length = k
  rw [htxi, List.length_take, wireBytes_length]
  omega

/-- WB is written, so the byte offered in a later epoch is still the byte of the frame. -/
theorem takeOffered_transmitted {s : State} {k : Nat} (htxi : s.txi = 0) (hwb : Written s.mem .wb s.wbLen.toNat)
    (hk : k < s.wbLen.toNat) :
    takeOffered (transmitted ((wireBytes s).take k) s) = transmitted ((wireBytes s).take (k + 1)) s := by
  have hlen : k < (wireBytes s).length := (wireBytes_length s).symm ▸ hk
  have hoffered : byteOf (transmitted ((wireBytes s).take k) s) .wb k = (wireBytes s)[k] := by
    simp only [wireBytes, bytesFrom_getElem, Nat.zero_add]
    exact byteOf_written rfl (hwb k hk)
  rw [takeOffered, transmitted_txi htxi hk.le, hoffered, List.take_succ_eq_append_getElem hlen]
  have hmin : min k (wireBytes s).length = k := min_eq_left hlen.le
  simp only [transmitted, newEpoch, List.append_assoc, List.length_append, List.length_take, List.length_singleton, hmin,
    htxi, Nat.zero_add, Nat.add_assoc]

theorem txAcceptStep_iterate {s : State} {k : Nat} (hphase : s.phase = .tx) (htxi : s.txi = 0)
    (hwb : Written s.mem .wb s.wbLen.toNat) (hk : k < s.wbLen.toNat) :
    txAcceptStep^[k] s = transmitted ((wireBytes s).take k) s := by
  induction k with
  | zero => simp [transmitted]
  | succ k ih =>
    have hk' : k < s.wbLen.toNat := Nat.lt_of_succ_lt hk
    have hmore : (transmitted ((wireBytes s).take k) s).txi + 1 ≠ s.wbLen.toNat := by
      rw [transmitted_txi htxi hk'.le]
      exact hk.ne
    rw [Function.iterate_succ_apply', ih hk', ← takeOffered_transmitted htxi hwb hk']
    exact (txAcceptStep_tx (s := transmitted _ s) hphase).trans (if_neg hmore)

/-- The accept of the last byte enters the settle delay (R414). -/
theorem txAcceptStep_iterate_all {s : State} (hphase : s.phase = .tx) (htxi : s.txi = 0) (hne : s.wbLen ≠ 0)
    (hwb : Written s.mem .wb s.wbLen.toNat) :
    txAcceptStep^[s.wbLen.toNat] s = enterSettle (transmitted (wireBytes s) s) := by
  obtain ⟨k, hk⟩ := Nat.exists_eq_succ_of_ne_zero fun h0 => hne (BitVec.eq_of_toNat_eq h0)
  have hlast : k < s.wbLen.toNat := hk ▸ Nat.lt_succ_self k
  have hend : (transmitted ((wireBytes s).take k) s).txi + 1 = s.wbLen.toNat := by
    rw [transmitted_txi htxi hlast.le, hk]
  have hall : (wireBytes s).take (k + 1) = wireBytes s := List.take_of_length_le (by rw [wireBytes_length, hk])
  have htaken : takeOffered (transmitted ((wireBytes s).take k) s) = transmitted (wireBytes s) s := by
    rw [takeOffered_transmitted htxi hwb hlast, hall]
  rw [hk, Function.iterate_succ_apply', txAcceptStep_iterate hphase htxi hwb hlast, ← htaken]
  exact (txAcceptStep_tx (s := transmitted _ s) hphase).trans (if_pos hend)

/-- Fewer than T Ticks after it was entered the settle delay still runs. -/
theorem tickStep_iterate_enterSettle_phase {s : State} {k : Nat} (hk : k < settleTime s) :
    (tickStep^[k] (enterSettle s)).phase = .settle := by
  rw [enterSettle, if_neg (Nat.ne_zero_of_lt hk),
    tickStep_iterate_settle rfl ((Nat.zero_add k).trans_lt hk)]

/-- Settles O27: WB_LEN accepts take the bytes of WB in order, and T Ticks end the settle delay that the last enters. -/
theorem sSendTransmitsFrame : Obligations.SSendTransmitsFrame := by
  intro s long _ hx hne
  refine ⟨sending long s, execSSend_starts long hx hne, rfl, fun hwb => ⟨fun k hk => ?_, ?_⟩⟩
  · rw [txAcceptStep_iterate (s := sending long s) rfl rfl hwb hk]
    exact ⟨rfl, rfl⟩
  · rintro T rfl
    have hall : txAcceptStep^[s.wbLen.toNat] (sending long s) =
        enterSettle (transmitted (wireBytes (sending long s)) (sending long s)) :=
      txAcceptStep_iterate_all (s := sending long s) rfl rfl hne hwb
    rw [hall]
    have hend := tickStep_iterate_enterSettle (transmitted (wireBytes (sending long s)) (sending long s))
    exact ⟨fun k hk => tickStep_iterate_enterSettle_phase hk, _, hend.symm, rfl, rfl, rfl, rfl, rfl, rfl⟩

end Sys2Proof.Machine
end

section
/-! PROOFS. What a step can do, said once: the answer to each input (20_memory.md, 60_exceptions.md R612) is one of the
states listed here. -/

namespace Sys2Proof.Machine

/-- The next states that an input can lead to: host accesses first, then the engine steps, each in the one phase that
enables it. -/
inductive Reaction (s : State) : Input → State → Prop
  | read (size : AccessSize) (off : Offset) (w : Word) : Reaction s (.hostRead size off) { s with hostData := w }
  | ignoredWrite (size : AccessSize) (off : Offset) (v : Word) : Reaction s (.hostWrite size off v) (newEpoch s)
  | rejectedWrite (off : Offset) (v : Word) (hbusy : s.phase ≠ .idle)
    (hlisted : off ∈ [0x0000#16, 0x0008#16, 0x0010#16, 0x0014#16, 0x0018#16, 0x0028#16] ∨
      ∃ j, j < s.params.pbCap.val ∧ off.toNat = Buf.pb.addr j) :
    Reaction s (.hostWrite .word off v) (reject (newEpoch s))
  | statusWrite (v : Word) : Reaction s (.hostWrite .word 0x0004 v) { newEpoch s with rej := s.rej && !v.getLsbD 2 }
  | registerWrite (off : Offset) (v : Word) (t : State) (hidle : s.phase = .idle)
    (ht : t = { newEpoch s with xport := t.xport, lead := t.lead, subc := t.subc, regAddr := t.regAddr,
                                pbLen := t.pbLen, primIn0 := t.primIn0, primIn1 := t.primIn1 }) :
    Reaction s (.hostWrite .word off v) t
  | payloadWrite (off : Offset) (v : Word) (j : Nat) (hidle : s.phase = .idle) (hj : j < s.params.pbCap.val)
    (hoff : off.toNat = Buf.pb.addr j) : Reaction s (.hostWrite .word off v)
      { newEpoch s with mem := s.mem.write (Buf.pb.addr j) (v.extractLsb' 0 8) }
  | badCommand (v : Word) (hidle : s.phase = .idle) :
    Reaction s (.hostWrite .word 0x0008 v) (finish .param (accept (newEpoch s)))
  | command (v : Word) (i : Instr) (t : State) (hidle : s.phase = .idle) (hi : decode v = .ok i)
    (hexec : exec i (newEpoch s) = .next t) : Reaction s (.hostWrite .word 0x0008 v) t
  | disabled (i : Input) (hi : i ≠ .reset) : Reaction s i s
  | accepted (hphase : s.phase = .tx) : Reaction s .txAccept (takeOffered s)
  | acceptedLast (hphase : s.phase = .tx) : Reaction s .txAccept (enterSettle (takeOffered s))
  | arrived (b : Byte) : Reaction s (.rxArrive b) { s with rxQueue := s.rxQueue ++ [b] }
  | taken (b : Byte) (q : List Byte) (hphase : s.phase = .rx) (hopen : rxOpen s = true) (hq : s.rxQueue = b :: q) :
    Reaction s .rxTake (rxByte b (dequeued 1 q s))
  | counted (hphase : s.phase = .settle ∨ s.phase = .rx) :
    Reaction s .tick { s with tmr := s.tmr + 1, epoch := s.epoch + 1 }
  | settled (hphase : s.phase = .settle) :
    Reaction s .tick (finishSend .ok { s with tmr := s.tmr + 1, epoch := s.epoch + 1 })
  | timedOut (hphase : s.phase = .rx) :
    Reaction s .tick (failReceive .timeout { s with tmr := s.tmr + 1, epoch := s.epoch + 1 })
  | writeFailed (status : Byte) (hphase : s.phase = .busWr) :
    Reaction s (.busDone status) (finishSend .protocol { newEpoch s with busReq := none })
  | writeDone (status : Byte) (hphase : s.phase = .busWr) :
    Reaction s (.busDone status) (enterSettle { newEpoch s with busReq := none })
  | delivered (d l : List Byte) (hphase : s.phase = .busRd) (hl : l.length ≤ s.latch.n.toNat) :
    Reaction s (.busData d) (finishReceived l { newEpoch s with busReq := none })
  | badDelivery (d : List Byte) (c : ResultClass) (hphase : s.phase = .busRd) (hc : c = .protocol ∨ c = .dataLen) :
    Reaction s (.busData d) (finishEmpty c { newEpoch s with busReq := none })
  | reset : Reaction s .reset (resetStep s)

theorem hostWrite_reaction {size : AccessSize} {off : Offset} {v : Word} {s t : State}
    (h : react (.hostWrite size off v) s = .next t) : Reaction s (.hostWrite size off v) t := by
  obtain ⟨rfl, -, rfl | ⟨hbusy, rfl, hlisted⟩ | ⟨rfl, rfl⟩ | ⟨rfl, hidle, -, rfl⟩ | ⟨rfl, hidle, i, hi, hexec⟩ |
    ⟨hidle, -, rfl⟩ | ⟨hidle, -, rfl⟩ | ⟨hidle, -, rfl⟩ | ⟨hidle, -, rfl⟩ | ⟨hidle, -, rfl⟩ |
    ⟨hidle, j, hj, hoff, rfl⟩⟩ := hostWrite_cases h
  · exact .ignoredWrite _ _ _
  · exact .rejectedWrite _ _ hbusy hlisted
  · rw [clearRej_eq]; exact .statusWrite v
  · exact .badCommand v hidle
  · exact .command v i t hidle hi hexec
  · exact .registerWrite _ _ _ hidle (by rw [writeCtrl_frame])
  · exact .registerWrite _ _ _ hidle rfl
  · exact .registerWrite _ _ _ hidle rfl
  · exact .registerWrite _ _ _ hidle rfl
  · exact .registerWrite _ _ _ hidle rfl
  · exact .payloadWrite _ _ j hidle hj hoff

theorem react_reaction {i : Input} {s t : State} (h : react i s = .next t) : Reaction s i t := by
  cases i with
  | hostRead size off => rw [hostRead_cases h]; exact .read _ _ _
  | hostWrite size off v => exact hostWrite_reaction h
  | txAccept =>
    cases h
    by_cases hphase : s.phase = .tx
    · rw [txAcceptStep_tx hphase]
      split
      · exact .acceptedLast hphase
      · exact .accepted hphase
    · rw [txAcceptStep_not_tx hphase]; exact .disabled _ nofun
  | rxArrive b => cases h; exact .arrived b
  | rxTake =>
    cases h
    obtain hkeep | ⟨b, q, hphase, hopen, hq, htake⟩ := rxTakeStep_cases s
    · rw [hkeep]; exact .disabled _ nofun
    · rw [htake]; exact .taken b q hphase hopen hq
  | busDone status =>
    cases h
    obtain hkeep | ⟨hphase, ht | ht⟩ := busDoneStep_cases status s
    · rw [hkeep]; exact .disabled _ nofun
    · rw [ht]; exact .writeFailed status hphase
    · rw [ht]; exact .writeDone status hphase
  | busData d =>
    cases h
    obtain hkeep | ⟨hphase, ⟨l, hl, ht⟩ | ⟨c, hc, ht⟩⟩ := busDataStep_cases d s
    · rw [hkeep]; exact .disabled _ nofun
    · rw [ht]; exact .delivered d l hphase hl
    · rw [ht]; exact .badDelivery d c hphase hc
  | tick =>
    cases h
    obtain hkeep | ⟨hphase, -, ht⟩ | ⟨hphase, ht⟩ | ⟨hphase, -, ht⟩ | ⟨hphase, ht⟩ := tickStep_cases s
    · rw [hkeep]; exact .disabled _ nofun
    · rw [ht]; exact .counted (.inl hphase)
    · rw [ht]; exact .settled hphase
    · rw [ht]; exact .counted (.inr hphase)
    · rw [ht]; exact .timedOut hphase
  | reset => cases h; exact .reset

/-- A step answers its next input, with that input taken. -/
theorem step_eq (s : State) : ∃ ins n, step s = react (nextInput s) { s with inputs := ins, inputCount := n } := by
  unfold step takeInput
  split
  · exact ⟨_, _, rfl⟩
  · exact ⟨_, _, rfl⟩

theorem step_reaction {s t : State} (h : step s = .next t) :
    ∃ ins n, Reaction { s with inputs := ins, inputCount := n } (nextInput s) t := by
  obtain ⟨ins, n, hstep⟩ := step_eq s
  exact ⟨ins, n, react_reaction (hstep.symm.trans h)⟩

/-! The receive queue, 10 R125 -/

theorem reaction_rxQueue {i : Input} {s t : State} (h : Reaction s i t) : t.rxQueue = s.rxQueue ∨
    (∃ b, i = .rxArrive b ∧ t.rxQueue = s.rxQueue ++ [b]) ∨
    (i = .rxTake ∧ s.phase = .rx ∧ ∃ b, s.rxQueue = b :: t.rxQueue) := by
  cases h with
  | arrived b => exact .inr (.inl ⟨b, rfl, rfl⟩)
  | taken b q hphase hopen hq => exact .inr (.inr ⟨rfl, hphase, b, by rw [rxByte_frame]; exact hq⟩)
  | command v j _ hidle hj hexec => exact .inl (by rw [exec_frame hexec]; rfl)
  | registerWrite off v _ hidle ht => exact .inl (by rw [ht]; rfl)
  | acceptedLast | writeDone => exact .inl (by rw [enterSettle_frame]; rfl)
  | _ => exact .inl rfl

/-- Settles O54: only an arrival and an enabled byte step touch the queue; reset keeps it. -/
theorem queuedBytesNeverDiscarded : Obligations.QueuedBytesNeverDiscarded := by
  intro s t h
  obtain ⟨ins, n, hreact⟩ := step_reaction h
  exact (reaction_rxQueue hreact :)

/-! Who writes the buffers, 10 R115 to R118 -/

/-- What an input can do to the buffer memory: nothing, an idle write to a PB byte, an encode into WB, the payload of a
receive into IB, the next raw byte into RB, or reset. -/
inductive MemoryChange (s : State) (i : Input) (t : State) : Prop
  | kept (h : t.mem = s.mem)
  | payload (off : Offset) (v : Word) (j : Nat) (hidle : s.phase = .idle) (hi : i = .hostWrite .word off v)
    (hj : j < s.params.pbCap.val) (hoff : off.toNat = Buf.pb.addr j)
    (h : t.mem = s.mem.write (Buf.pb.addr j) (v.extractLsb' 0 8))
  | encoded (v : Word) (l : List Byte) (hidle : s.phase = .idle) (hi : i = .hostWrite .word 0x0008 v)
    (hv : (∃ b, decode v = .ok (.sEncode b)) ∨ decode v = .ok .bEncode) (hl : l.length ≤ s.params.wbCap)
    (h : t.mem = s.mem.writeFrom .wb 0 l)
  | received (l : List Byte) (hend : t.result.cls = .ok ∧ t.done = true ∧ t.phase = .idle)
    (hi : s.phase = .rx ∧ i = .rxTake ∨ s.phase = .busRd ∧ ∃ d, i = .busData d) (hl : l.length ≤ s.latch.n.toNat)
    (h : t.mem = s.mem.writeFrom .ib 0 l)
  | stored (k : Nat) (x : Byte) (hphase : s.phase = .rx) (hi : i = .rxTake)
    (h : t.mem = s.mem.write (Buf.rb.addr k) x)
  | cleared (hi : i = .reset)

theorem command_memory {v : Word} {i : Instr} {s t : State} (hidle : s.phase = .idle) (hi : decode v = .ok i)
    (h : exec i (newEpoch s) = .next t) : MemoryChange s (.hostWrite .word 0x0008 v) t := by
  cases exec_result h with
  | sEncode sub l hfits => exact .encoded v l hidle rfl (.inl ⟨sub, hi⟩) hfits rfl
  | bEncode l hfits => exact .encoded v l hidle rfl (.inr hi) hfits rfl
  | _ => exact .kept rfl

theorem taken_memory {b : Byte} {q : List Byte} {s : State} (hphase : s.phase = .rx) (hopen : rxOpen s = true) :
    MemoryChange s .rxTake (rxByte b (dequeued 1 q s)) := by
  have hbyte : ByteResult (dequeued 1 q s) (rxByte b (dequeued 1 q s)) := rxByte_result b hopen
  generalize rxByte b (dequeued 1 q s) = t at hbyte ⊢
  cases hbyte with
  | stores x hroom => exact .stored _ x hphase rfl rfl
  | received l hl => exact .received l ⟨rfl, rfl, rfl⟩ (.inl ⟨hphase, rfl⟩) hl.le rfl
  | _ => exact .kept rfl

theorem reaction_memory {i : Input} {s t : State} (h : Reaction s i t) : MemoryChange s i t := by
  cases h with
  | registerWrite off v _ hidle ht => exact .kept (by rw [ht]; rfl)
  | payloadWrite off v j hidle hj hoff => exact .payload off v j hidle rfl hj hoff rfl
  | command v j _ hidle hi hexec => exact command_memory hidle hi hexec
  | acceptedLast | writeDone => exact .kept (by rw [enterSettle_frame]; rfl)
  | taken b q hphase hopen hq => exact taken_memory hphase hopen
  | delivered d l hphase hl => exact .received l ⟨rfl, rfl, rfl⟩ (.inr ⟨hphase, d, rfl⟩) hl rfl
  | reset => exact .cleared rfl
  | _ => exact .kept rfl

/-- A byte inside its window lies before every byte of a later window (20 R201). -/
theorem Buf.addr_ne_of_base_lt {b c : Buf} {i j : Nat} (h : b.base + 0x2000 ≤ c.base) (hi : i < 2048) :
    b.addr i ≠ c.addr j := by
  unfold Buf.addr
  omega

theorem eq_ofNat_of_toNat {off : Offset} {a : Nat} (h : off.toNat = a) : off = BitVec.ofNat 16 a := by
  rw [← h, BitVec.ofNat_toNat, BitVec.setWidth_eq]

theorem reaction_payload {i : Input} {s t : State} {j : Nat} (h : Reaction s i t) (hj : j < s.params.pbCap.val) :
    t.mem.read (Buf.pb.addr j) = s.mem.read (Buf.pb.addr j) ∨ i = .reset ∨
    (s.phase = .idle ∧ ∃ v : Word, i = .hostWrite .word (BitVec.ofNat 16 (Buf.pb.addr j)) v ∧
      t.mem.read (Buf.pb.addr j) = some (v.extractLsb' 0 8)) := by
  have hwin : j < 2048 := hj.trans (s.params.pbCap.isLt.trans (by decide))
  cases reaction_memory h with
  | kept hm => exact .inl (by rw [hm])
  | payload off v k hidle hi hk hoff hm =>
    rw [hm]
    by_cases hjk : j = k
    · subst hjk
      exact .inr (.inr ⟨hidle, v, eq_ofNat_of_toNat hoff ▸ hi, Memory.read_write_same _ _ _⟩)
    · exact .inl (Memory.read_write_other _ _ (mt Buf.addr_inj.mp hjk))
  | encoded v l _ _ _ _ hm =>
    exact .inl (hm ▸ Memory.read_writeFrom_other fun k _ => Buf.addr_ne_of_base_lt (by decide) hwin)
  | received l _ _ _ hm =>
    exact .inl (hm ▸ Memory.read_writeFrom_other fun k _ => Buf.addr_ne_of_base_lt (by decide) hwin)
  | stored k x _ _ hm => exact .inl (hm ▸ Memory.read_write_other _ x (Buf.addr_ne_of_base_lt (by decide) hwin))
  | cleared hi => exact .inr (.inl hi)

/-- Settles O13: of all that is written to the buffers only the host's own write reaches the PB window. -/
theorem payloadWrittenOnlyByHost : Obligations.PayloadWrittenOnlyByHost := by
  intro s t j h hj
  obtain ⟨ins, n, hreact⟩ := step_reaction h
  exact (reaction_payload hreact hj :)

end Sys2Proof.Machine
end

section
/-! PROOFS. Who writes which register (10_state.md section 2, 20_memory.md R214, 60_exceptions.md R603, R610): REJ,
RXST, PRIM_OUT and CHK, RESULT and DONE, the lengths and the buffers, and the operands of a running command. -/

namespace Sys2Proof.Machine

/-! REJ, 10 R119 -/

theorem reaction_rej {i : Input} {s t : State} (h : Reaction s i t) (hrej : t.rej ≠ s.rej) :
    (t.rej = true ∧ s.phase ≠ .idle ∧ ∃ off v, i = .hostWrite .word off v ∧
      (off ∈ [0x0000#16, 0x0008#16, 0x0010#16, 0x0014#16, 0x0018#16, 0x0028#16] ∨
        ∃ j, j < s.params.pbCap.val ∧ off.toNat = Buf.pb.addr j)) ∨
    (t.rej = false ∧ (i = .reset ∨ ∃ v : Word, i = .hostWrite .word 0x0004 v ∧ v.getLsbD 2 = true)) := by
  cases h with
  | rejectedWrite off v hbusy hlisted => exact .inl ⟨rfl, hbusy, off, v, rfl, hlisted⟩
  | statusWrite v =>
    have hcleared : ∀ r b : Bool, (r && !b) ≠ r → (r && !b) = false ∧ b = true := by decide
    obtain ⟨hfalse, hbit⟩ := hcleared s.rej (v.getLsbD 2) hrej
    exact .inr ⟨hfalse, .inr ⟨v, rfl, hbit⟩⟩
  | reset => exact .inr ⟨rfl, .inl rfl⟩
  | registerWrite off v _ hidle ht => exact absurd (by rw [ht]; rfl) hrej
  | command v j _ hidle hj hexec => exact absurd (by rw [exec_frame hexec]; rfl) hrej
  | taken => exact absurd (by rw [rxByte_frame]; rfl) hrej
  | acceptedLast | writeDone => exact absurd (by rw [enterSettle_frame]; rfl) hrej
  | _ => exact absurd rfl hrej

/-- Settles O53: of the host's writes only a rejected one sets REJ, and only one to STATUS clears it. -/
theorem rejSetAndClearedOnlyByHost : Obligations.RejSetAndClearedOnlyByHost := by
  intro s t h hrej
  obtain ⟨ins, n, hreact⟩ := step_reaction h
  exact (reaction_rej hreact hrej :)

/-! RXST, 10 R121 -/

theorem reaction_rxst {i : Input} {s t : State} (h : Reaction s i t) (hrxst : t.rxst ≠ s.rxst) :
    i = .reset ∨ (s.phase = .rx ∧ (i = .rxTake ∨ i = .tick)) ∨
    (s.phase = .idle ∧ t.rxst = .awaitDelim ∧
      ∃ v n, i = .hostWrite .word 0x0008 v ∧ decode v = .ok (.sRecv n)) := by
  cases h with
  | taken b q hphase hopen hq => exact .inr (.inl ⟨hphase, .inl rfl⟩)
  | timedOut hphase => exact .inr (.inl ⟨hphase, .inr rfl⟩)
  | command v j _ hidle hj hexec =>
    cases exec_result hexec with
    | sRecv n => exact .inr (.inr ⟨hidle, rfl, v, n, rfl, hj⟩)
    | _ => exact absurd rfl hrxst
  | reset => exact .inl rfl
  | registerWrite off v _ hidle ht => exact absurd (by rw [ht]; rfl) hrxst
  | acceptedLast | writeDone => exact absurd (by rw [enterSettle_frame]; rfl) hrxst
  | _ => exact absurd rfl hrxst

/-- Settles O55: the start, the byte steps and the timeout are S_RECV's. -/
theorem rxstWrittenOnlyBySRecv : Obligations.RxstWrittenOnlyBySRecv := by
  intro s t h hrxst
  obtain ⟨ins, n, hreact⟩ := step_reaction h
  exact (reaction_rxst hreact hrxst :)

/-! PRIM_OUT and CHK, 10 R113, R114 -/

/-- Apart from reset and an accepted command no input touches the primitives' results. -/
theorem reaction_primitive {i : Input} {s t : State} (h : Reaction s i t) (hreset : i ≠ .reset) :
    (t.primOut = s.primOut ∧ t.chk = s.chk) ∨
    ∃ v j, i = .hostWrite .word 0x0008 v ∧ decode v = .ok j ∧ CommandResult (newEpoch s) j t := by
  cases h with
  | command v j _ hidle hj hexec => exact .inr ⟨v, j, rfl, hj, exec_result hexec⟩
  | registerWrite off v _ hidle ht => exact .inl (by rw [ht]; exact ⟨rfl, rfl⟩)
  | taken => exact .inl (by rw [rxByte_frame]; exact ⟨rfl, rfl⟩)
  | acceptedLast | writeDone => exact .inl (by rw [enterSettle_frame]; exact ⟨rfl, rfl⟩)
  | reset => exact absurd rfl hreset
  | _ => exact .inl ⟨rfl, rfl⟩

theorem command_primOut {i : Instr} {s t : State} (h : CommandResult s i t) (hout : t.primOut ≠ s.primOut) :
    i = .stuff ∨ i = .unstuff := by
  cases h with
  | stuff => exact .inl rfl
  | unstuff => exact .inr rfl
  | _ => exact absurd rfl hout

theorem command_chk {i : Instr} {s t : State} (h : CommandResult s i t) (hchk : t.chk ≠ s.chk) :
    i = .cksum ∨ i = .crc8 := by
  cases h with
  | cksum => exact .inl rfl
  | crc8 => exact .inr rfl
  | _ => exact absurd rfl hchk

/-- Settles O57: by what the accepted command writes. -/
theorem primitiveResultWriters : Obligations.PrimitiveResultWriters := by
  intro s t h hreset
  obtain ⟨ins, n, hreact⟩ := step_reaction h
  obtain ⟨hout, hchk⟩ | ⟨v, j, hi, hj, hcommand⟩ := reaction_primitive hreact hreset
  · exact ⟨fun hne => absurd hout hne, fun hne => absurd hchk hne⟩
  · refine ⟨fun hne => ?_, fun hne => ?_⟩
    · obtain rfl | rfl := command_primOut hcommand hne
      · exact ⟨v, hi, .inl hj⟩
      · exact ⟨v, hi, .inr hj⟩
    · obtain rfl | rfl := command_chk hcommand hne
      · exact ⟨v, hi, .inl hj⟩
      · exact ⟨v, hi, .inr hj⟩

/-! RESULT and DONE, 60 R603, R610 -/

/-- Where a command can end: at its own write to CMD, or in the engine step of its phase. -/
def EndsCommand (s : State) (i : Input) : Prop :=
  (s.phase = .idle ∧ ∃ v, i = .hostWrite .word 0x0008 v) ∨
  (s.phase = .tx ∧ i = .txAccept) ∨ (s.phase = .settle ∧ i = .tick) ∨
  (s.phase = .rx ∧ (i = .rxTake ∨ i = .tick)) ∨
  (s.phase = .busWr ∧ ∃ status, i = .busDone status) ∨
  (s.phase = .busRd ∧ ∃ d, i = .busData d)

/-- The classes that `finish` writes, with device fields for DEVSTATUS alone (60 R601, R603). -/
def BlockResult (r : Result) : Prop :=
  r.cls ≠ .cmdState ∧ (r.cls ≠ .devStatus → r.devCode = 0 ∧ r.devErr = false)

theorem blockResult_plain {c : ResultClass} (h : c ≠ .cmdState) : BlockResult (plainResult c) :=
  ⟨h, fun _ => ⟨rfl, rfl⟩⟩

/-- What an input can do to RESULT and DONE. -/
inductive ResultChange (s : State) (i : Input) (t : State) : Prop
  | kept (hres : t.result = s.result) (hdone : t.done = s.done)
  | ended (hdone : t.done = true) (hphase : t.phase = .idle) (hres : BlockResult t.result) (hends : EndsCommand s i)
  | started (v : Word) (hidle : s.phase = .idle) (hi : i = .hostWrite .word 0x0008 v) (hres : t.result = s.result)
    (hdone : t.done = false) (hphase : t.phase ≠ .idle)
  | cleared (hi : i = .reset) (hres : t.result = plainResult .ok)

theorem command_result {v : Word} {i : Instr} {s t : State} (hidle : s.phase = .idle)
    (h : CommandResult (newEpoch s) i t) : ResultChange s (.hostWrite .word 0x0008 v) t := by
  have hends : EndsCommand s (.hostWrite .word 0x0008 v) := .inl ⟨hidle, v, rfl⟩
  cases h with
  | sSend | sRecv | bSend | bRecv => exact .started v hidle rfl rfl rfl nofun
  | unstuff =>
    refine .ended rfl rfl (blockResult_plain ?_) hends
    obtain hok | hbad := unstuffResult_class s.primIn0 s.primIn1
    · exact hok.trans_ne nofun
    · exact hbad.trans_ne nofun
  | _ => exact .ended rfl rfl (blockResult_plain nofun) hends

theorem enterSettle_result {s u : State} {i : Input} (hends : EndsCommand s i) (hres : u.result = s.result)
    (hdone : u.done = s.done) : ResultChange s i (enterSettle u) := by
  obtain ⟨-, henter⟩ | ⟨-, henter⟩ := enterSettle_cases u <;> rw [henter]
  · exact .kept hres hdone
  · exact .ended rfl rfl (blockResult_plain nofun) hends

theorem taken_result {b : Byte} {q : List Byte} {s : State} (hphase : s.phase = .rx) (hopen : rxOpen s = true) :
    ResultChange s .rxTake (rxByte b (dequeued 1 q s)) := by
  have hends : EndsCommand s .rxTake := .inr (.inr (.inr (.inl ⟨hphase, .inl rfl⟩)))
  have hbyte : ByteResult (dequeued 1 q s) (rxByte b (dequeued 1 q s)) := rxByte_result b hopen
  generalize rxByte b (dequeued 1 q s) = t at hbyte ⊢
  cases hbyte with
  | goesOn | stores => exact .kept rfl rfl
  | rejected c hc => exact .ended rfl rfl (blockResult_plain (by obtain rfl | rfl := hc <;> exact nofun)) hends
  | device status => exact .ended rfl rfl ⟨nofun, fun hdev => absurd rfl hdev⟩ hends
  | fails | received => exact .ended rfl rfl (blockResult_plain nofun) hends

theorem reaction_result {i : Input} {s t : State} (h : Reaction s i t) : ResultChange s i t := by
  cases h with
  | registerWrite off v _ hidle ht => exact .kept (by rw [ht]; rfl) (by rw [ht]; rfl)
  | badCommand v hidle => exact .ended rfl rfl (blockResult_plain nofun) (.inl ⟨hidle, v, rfl⟩)
  | command v j _ hidle hj hexec => exact command_result hidle (exec_result hexec)
  | acceptedLast hphase => exact enterSettle_result (.inr (.inl ⟨hphase, rfl⟩)) rfl rfl
  | taken b q hphase hopen hq => exact taken_result hphase hopen
  | settled hphase => exact .ended rfl rfl (blockResult_plain nofun) (.inr (.inr (.inl ⟨hphase, rfl⟩)))
  | timedOut hphase =>
    exact .ended rfl rfl (blockResult_plain nofun) (.inr (.inr (.inr (.inl ⟨hphase, .inr rfl⟩))))
  | writeFailed status hphase =>
    exact .ended rfl rfl (blockResult_plain nofun) (.inr (.inr (.inr (.inr (.inl ⟨hphase, status, rfl⟩)))))
  | writeDone status hphase => exact enterSettle_result (.inr (.inr (.inr (.inr (.inl ⟨hphase, status, rfl⟩))))) rfl rfl
  | delivered d l hphase hl =>
    exact .ended rfl rfl (blockResult_plain nofun) (.inr (.inr (.inr (.inr (.inr ⟨hphase, d, rfl⟩)))))
  | badDelivery d c hphase hc =>
    exact .ended rfl rfl (blockResult_plain (by obtain rfl | rfl := hc <;> exact nofun))
      (.inr (.inr (.inr (.inr (.inr ⟨hphase, d, rfl⟩)))))
  | reset => exact .cleared rfl rfl
  | _ => exact .kept rfl rfl

/-- A command that is performed has DONE = 1 exactly if it has finished. -/
theorem exec_done_iff {i : Instr} {s t : State} (h : exec i s = .next t) :
    t.done = true ↔ t.phase = .idle := by
  cases exec_result h with
  | sSend | sRecv | bSend | bRecv => exact ⟨nofun, nofun⟩
  | _ => exact ⟨fun _ => rfl, fun _ => rfl⟩

/-- Settles O56: by what the step's input can do to RESULT and DONE. -/
theorem resultWrittenOnlyByFinish : Obligations.ResultWrittenOnlyByFinish := by
  refine ⟨fun s t h => ?_, fun s t i _ => exec_done_iff⟩
  obtain ⟨ins, n, hreact⟩ := step_reaction h
  cases reaction_result hreact with
  | kept hres hdone =>
    exact ⟨fun _ hnew => hnew.elim (absurd hres) fun hset => absurd (hset.1.symm.trans (hdone.trans hset.2)) nofun,
      absurd hres, fun hs ht => absurd (ht.symm.trans (hdone.trans hs)) nofun⟩
  | ended hdone hphase hres hends =>
    exact ⟨fun _ _ => ⟨hdone, hphase, hends⟩, fun _ => hres, fun _ ht => absurd (ht.symm.trans hdone) nofun⟩
  | started v hidle hi hres hdone hphase =>
    exact ⟨fun _ hnew => hnew.elim (absurd hres) fun hset => absurd (hset.1.symm.trans hdone) nofun,
      absurd hres, fun _ _ => .inr ⟨hidle, hphase, v, hi⟩⟩
  | cleared hi hres =>
    exact ⟨fun hne => absurd hi hne, fun _ => hres ▸ blockResult_plain nofun, fun _ _ => .inl hi⟩

/-! The length registers, 10 R109 to R111 -/

/-- The words that encode a transmission (30 R302). -/
def IsEncode (i : Input) : Prop :=
  ∃ v, i = .hostWrite .word 0x0008 v ∧ ((∃ b, decode v = .ok (.sEncode b)) ∨ decode v = .ok .bEncode)

theorem enterSettle_wbLen {s : State} (h : (enterSettle s).wbLen ≠ s.wbLen) :
    (enterSettle s).phase = .idle ∧ (enterSettle s).done = true ∧ (enterSettle s).wbLen = 0 := by
  obtain ⟨-, henter⟩ | ⟨-, henter⟩ := enterSettle_cases s <;> rw [henter] at h ⊢
  · exact absurd rfl h
  · exact ⟨rfl, rfl, rfl⟩

theorem reaction_wbLen {i : Input} {s t : State} (h : Reaction s i t) (hreset : i ≠ .reset)
    (hwb : t.wbLen ≠ s.wbLen) : t.phase = .idle ∧ t.done = true ∧
      (s.phase ∈ [Phase.tx, .settle, .busWr] ∧ t.wbLen = 0 ∨ IsEncode i) := by
  cases h with
  | command v j _ hidle hj hexec =>
    cases exec_result hexec with
    | sEncode sub => exact ⟨rfl, rfl, .inr ⟨v, rfl, .inl ⟨sub, hj⟩⟩⟩
    | bEncode => exact ⟨rfl, rfl, .inr ⟨v, rfl, .inr hj⟩⟩
    | _ => exact absurd rfl hwb
  | acceptedLast hphase =>
    obtain ⟨hidle, hdone, hzero⟩ := enterSettle_wbLen hwb
    exact ⟨hidle, hdone, .inl ⟨by simp [hphase], hzero⟩⟩
  | settled hphase => exact ⟨rfl, rfl, .inl ⟨by simp [hphase], rfl⟩⟩
  | writeFailed status hphase => exact ⟨rfl, rfl, .inl ⟨by simp [hphase], rfl⟩⟩
  | writeDone status hphase =>
    obtain ⟨hidle, hdone, hzero⟩ := enterSettle_wbLen hwb
    exact ⟨hidle, hdone, .inl ⟨by simp [hphase], hzero⟩⟩
  | registerWrite off v _ hidle ht => exact absurd (by rw [ht]; rfl) hwb
  | taken => exact absurd (by rw [rxByte_frame]; rfl) hwb
  | reset => exact absurd rfl hreset
  | _ => exact absurd rfl hwb

theorem taken_ibLen {b : Byte} {s : State} (hopen : rxOpen s = true) (hib : (rxByte b s).ibLen ≠ s.ibLen) :
    (rxByte b s).phase = .idle ∧ (rxByte b s).done = true := by
  have hbyte := rxByte_result b hopen
  generalize rxByte b s = t at hbyte hib ⊢
  cases hbyte with
  | goesOn | stores => exact absurd rfl hib
  | _ => exact ⟨rfl, rfl⟩

theorem reaction_ibLen {i : Input} {s t : State} (h : Reaction s i t) (hreset : i ≠ .reset)
    (hib : t.ibLen ≠ s.ibLen) : t.phase = .idle ∧ t.done = true ∧ (s.phase = .rx ∨ s.phase = .busRd) := by
  cases h with
  | taken b q hphase hopen hq =>
    obtain ⟨hidle, hdone⟩ := taken_ibLen (s := dequeued 1 q s) hopen hib
    exact ⟨hidle, hdone, .inl hphase⟩
  | timedOut hphase => exact ⟨rfl, rfl, .inl hphase⟩
  | delivered d l hphase hl => exact ⟨rfl, rfl, .inr hphase⟩
  | badDelivery d c hphase hc => exact ⟨rfl, rfl, .inr hphase⟩
  | command v j _ hidle hj hexec => exact absurd (by rw [exec_frame hexec]; rfl) hib
  | registerWrite off v _ hidle ht => exact absurd (by rw [ht]; rfl) hib
  | acceptedLast | writeDone => exact absurd (by rw [enterSettle_frame]; rfl) hib
  | reset => exact absurd rfl hreset
  | _ => exact absurd rfl hib

theorem reaction_rbLen {i : Input} {s t : State} (h : Reaction s i t) (hreset : i ≠ .reset)
    (hrb : t.rbLen ≠ s.rbLen) : (s.phase = .rx ∧ i = .rxTake ∧ t.rbLen = s.rbLen + 1) ∨
      (s.phase = .idle ∧ t.rbLen = 0 ∧ ∃ v n, i = .hostWrite .word 0x0008 v ∧ decode v = .ok (.sRecv n)) := by
  cases h with
  | taken b q hphase hopen hq =>
    exact .inl ⟨hphase, rfl, (rxByte_rbLen b (dequeued 1 q s)).resolve_left hrb⟩
  | command v j _ hidle hj hexec =>
    cases exec_result hexec with
    | sRecv n => exact .inr ⟨hidle, rfl, v, n, rfl, hj⟩
    | _ => exact absurd rfl hrb
  | registerWrite off v _ hidle ht => exact absurd (by rw [ht]; rfl) hrb
  | acceptedLast | writeDone => exact absurd (by rw [enterSettle_frame]; rfl) hrb
  | reset => exact absurd rfl hreset
  | _ => exact absurd rfl hrb

/-! The buffer bytes, 10 R116 to R118 -/

/-- A write inside one window changes no byte of another. -/
theorem window_of_write {m : Memory} {b c : Buf} {k j : Nat} {x : Byte} (hk : k < 2048) (hj : j < 2048)
    (h : (m.write (b.addr k) x).read (c.addr j) ≠ m.read (c.addr j)) : c = b :=
  not_not.mp fun hne => h (Memory.read_write_other m x (Buf.addr_ne hne hj hk))

theorem window_of_writeFrom {m : Memory} {b c : Buf} {j : Nat} {l : List Byte} (hl : l.length ≤ 2048) (hj : j < 2048)
    (h : (m.writeFrom b 0 l).read (c.addr j) ≠ m.read (c.addr j)) : c = b :=
  not_not.mp fun hne => h (Memory.read_writeFrom_other fun k hk => Buf.addr_ne hne hj (by omega))

/-- A write at or beyond the start of a window changes no byte of an earlier one, however long it is. -/
theorem earlier_of_write {m : Memory} {b c : Buf} {k j : Nat} {x : Byte} (hj : j < 2048)
    (h : (m.write (b.addr k) x).read (c.addr j) ≠ m.read (c.addr j)) : ¬ c.base + 0x2000 ≤ b.base :=
  fun hlt => h (Memory.read_write_other m x (Buf.addr_ne_of_base_lt hlt hj))

theorem earlier_of_writeFrom {m : Memory} {b c : Buf} {j : Nat} {l : List Byte} (hj : j < 2048)
    (h : (m.writeFrom b 0 l).read (c.addr j) ≠ m.read (c.addr j)) : ¬ c.base + 0x2000 ≤ b.base :=
  fun hlt => h (Memory.read_writeFrom_other fun _ _ => Buf.addr_ne_of_base_lt hlt hj)

theorem reaction_wb {i : Input} {s t : State} {j : Nat} (h : Reaction s i t) (hreset : i ≠ .reset)
    (hj : j < s.params.wbCap) (hne : t.mem.read (Buf.wb.addr j) ≠ s.mem.read (Buf.wb.addr j)) :
    s.phase = .idle ∧ IsEncode i := by
  have hwin : j < 2048 := hj.trans_le (Buf.cap_le s.params .wb)
  cases reaction_memory h with
  | kept hm => exact absurd (by rw [hm]) hne
  | payload off v k hidle hi hk hoff hm =>
    exact absurd (window_of_write (hk.trans_le (Buf.cap_le s.params .pb)) hwin (hm ▸ hne)) (by decide)
  | encoded v l hidle hi hv _ hm => exact ⟨hidle, v, hi, hv⟩
  | received l _ _ _ hm => exact absurd (by decide) (earlier_of_writeFrom hwin (hm ▸ hne))
  | stored k x _ _ hm => exact absurd (by decide) (earlier_of_write hwin (hm ▸ hne))
  | cleared hi => exact absurd hi hreset

theorem reaction_ib {i : Input} {s t : State} {j : Nat} (h : Reaction s i t) (hreset : i ≠ .reset)
    (hj : j < s.params.ibCap.val) (hne : t.mem.read (Buf.ib.addr j) ≠ s.mem.read (Buf.ib.addr j)) :
    t.result.cls = .ok ∧ t.done = true ∧ t.phase = .idle ∧
      (s.phase = .rx ∧ i = .rxTake ∨ s.phase = .busRd ∧ ∃ d, i = .busData d) := by
  have hwin : j < 2048 := hj.trans_le (Buf.cap_le s.params .ib)
  cases reaction_memory h with
  | kept hm => exact absurd (by rw [hm]) hne
  | payload off v k hidle hi hk hoff hm =>
    exact absurd (window_of_write (hk.trans_le (Buf.cap_le s.params .pb)) hwin (hm ▸ hne)) (by decide)
  | encoded v l hidle hi hv hl hm =>
    exact absurd (window_of_writeFrom (hl.trans (Buf.cap_le s.params .wb)) hwin (hm ▸ hne)) (by decide)
  | received l hend hi _ _ =>
    obtain ⟨hok, hdone, hidle⟩ := hend
    exact ⟨hok, hdone, hidle, hi⟩
  | stored k x _ _ hm => exact absurd (by decide) (earlier_of_write hwin (hm ▸ hne))
  | cleared hi => exact absurd hi hreset

/-- The count of a bus read fits IB, so its payload does not reach RB's window. -/
theorem reaction_rb {i : Input} {s t : State} {j : Nat} (hinv : BlockInv s) (h : Reaction s i t) (hreset : i ≠ .reset)
    (hj : j < s.params.rbCap) (hne : t.mem.read (Buf.rb.addr j) ≠ s.mem.read (Buf.rb.addr j)) :
    s.phase = .rx ∧ i = .rxTake := by
  have hwin : j < 2048 := hj.trans_le (Buf.cap_le s.params .rb)
  cases reaction_memory h with
  | kept hm => exact absurd (by rw [hm]) hne
  | payload off v k hidle hi hk hoff hm =>
    exact absurd (window_of_write (hk.trans_le (Buf.cap_le s.params .pb)) hwin (hm ▸ hne)) (by decide)
  | encoded v l hidle hi hv hl hm =>
    exact absurd (window_of_writeFrom (hl.trans (Buf.cap_le s.params .wb)) hwin (hm ▸ hne)) (by decide)
  | received l hend hi hl hm =>
    obtain hrx | ⟨hrd, -⟩ := hi
    · exact hrx
    · obtain ⟨-, -, -, hn⟩ := hinv.inBusRd hrd
      exact absurd (window_of_writeFrom ((hl.trans hn).trans (Buf.cap_le s.params .ib)) hwin (hm ▸ hne)) (by decide)
  | stored k x hphase hi _ => exact ⟨hphase, hi⟩
  | cleared hi => exact absurd hi hreset

/-- Settles O58: one clause for each length register and each window. -/
theorem lengthAndBufferWriters : Obligations.LengthAndBufferWriters := by
  intro s t h hreset
  obtain ⟨ins, n, hreact⟩ := step_reaction h
  exact ⟨(reaction_wbLen hreact hreset :), (reaction_ibLen hreact hreset :), (reaction_rbLen hreact hreset :),
    fun j hj hne => (reaction_wb hreact hreset hj hne :), fun j hj hne => (reaction_ib hreact hreset hj hne :),
    fun hinv j hj hne => (reaction_rb (hinv.frame rfl) hreact hreset hj hne :)⟩

/-! The operands of a running command, 20 R214 -/

/-- No engine step, and no host access to a BUSY block, writes the latch or an operand register. -/
theorem reaction_busy_operands {i : Input} {s t : State} (h : Reaction s i t) (hbusy : s.phase ≠ .idle)
    (hreset : i ≠ .reset) : t.latch = s.latch ∧ t.xport = s.xport ∧ t.lead = s.lead ∧ t.subc = s.subc ∧
      t.regAddr = s.regAddr ∧ t.pbLen = s.pbLen ∧ t.primIn0 = s.primIn0 ∧ t.primIn1 = s.primIn1 := by
  cases h with
  | registerWrite off v _ hidle | payloadWrite off v j hidle | badCommand v hidle | command v j _ hidle =>
    exact absurd hidle hbusy
  | taken => rw [rxByte_frame]; exact ⟨rfl, rfl, rfl, rfl, rfl, rfl, rfl, rfl⟩
  | acceptedLast | writeDone => rw [enterSettle_frame]; exact ⟨rfl, rfl, rfl, rfl, rfl, rfl, rfl, rfl⟩
  | reset => exact absurd rfl hreset
  | _ => exact ⟨rfl, rfl, rfl, rfl, rfl, rfl, rfl, rfl⟩

theorem reaction_busy_pb {i : Input} {s t : State} {j : Nat} (h : Reaction s i t) (hbusy : s.phase ≠ .idle)
    (hreset : i ≠ .reset) (hj : j < s.params.pbCap.val) :
    t.mem.read (Buf.pb.addr j) = s.mem.read (Buf.pb.addr j) :=
  (reaction_payload h hj).resolve_right fun hother => hother.elim hreset fun hwrite => hbusy hwrite.left

theorem reaction_busy_wb {i : Input} {s t : State} {j : Nat} (h : Reaction s i t) (hbusy : s.phase ≠ .idle)
    (hreset : i ≠ .reset) (hj : j < s.params.wbCap) :
    t.mem.read (Buf.wb.addr j) = s.mem.read (Buf.wb.addr j) :=
  not_not.mp fun hne => hbusy (reaction_wb h hreset hj hne).left

/-- Settles O59: PB and WB have their own writers, none of them enabled while BUSY, and WB_LEN changes at the end. -/
theorem runningCommandKeepsOperands : Obligations.RunningCommandKeepsOperands := by
  intro s t hbusy hreset h
  obtain ⟨ins, n, hreact⟩ := step_reaction h
  obtain ⟨hlatch, hx, hlead, hsubc, haddr, hpb, hin0, hin1⟩ := reaction_busy_operands hreact hbusy hreset
  exact ⟨hlatch, hx, hlead, hsubc, haddr, hpb, hin0, hin1,
    fun j hj => (reaction_busy_pb hreact hbusy hreset hj :), fun j hj => (reaction_busy_wb hreact hbusy hreset hj :),
    fun hrun => not_not.mp fun hne => hrun (reaction_wbLen hreact hreset hne).left⟩

end Sys2Proof.Machine
end

section
/-! PROOFS. The step and its inputs: a step answers one input (60_exceptions.md R612), the fault
(70_reset_and_hazards.md R704), the reset input (R700), and events that are not enabled. -/

namespace Sys2Proof.Machine

/-! The step, R612, 30 R320 -/

theorem writeCmd_idle {s : State} {v : Word} {i : Instr} (hidle : s.phase = .idle) (hi : decode v = .ok i) :
    writeCmd v s = exec i s := by
  rw [writeCmd, busy_eq_false.mpr hidle, hi]
  rfl

/-- Settles O5: the step takes the first placed input, and an idle write to CMD performs the decoded command. -/
theorem stepRunsDecodedCommand : Obligations.StepRunsDecodedCommand := by
  refine ⟨fun s i rest => step_cons, fun s v i rest hin hidle hi => ?_⟩
  rw [step_cons hin, react_cmd]
  exact writeCmd_idle hidle hi

/-! The fault, 70 R704 -/

/-- The commands that read PB, once their checks that end in PARAM have passed. -/
def ReadsPayload (s : State) (i : Instr) : Prop :=
  i = .sEncode true ∧ s.xport = .stream ∧ s.pbLen.toNat ≤ 254 ∨
  i = .bEncode ∧ s.xport = .bus ∧ s.pbLen.toNat % 2 = 0 ∨ i = .cksum ∨ i = .crc8

/-- The answer is a fault. -/
def Faults (a : Answer) : Prop := ∃ f, a = .fault f

@[simp] theorem faults_fault (f : Fault) : Faults (.fault f) := ⟨f, rfl⟩

@[simp] theorem not_faults_next (t : State) : ¬ Faults (.next t) := nofun

@[simp] theorem not_faults_refused (r : Refusal) : ¬ Faults (.refused r) := nofun

/-- A check that ends in PARAM goes before the fault of what follows it. -/
theorem faults_check {p : Prop} [Decidable p] {t : State} {a : Answer} :
    Faults (if p then .next t else a) ↔ ¬ p ∧ Faults a := by
  by_cases hp : p <;> simp [hp]

theorem not_payloadTooLong {s : State} : ¬ payloadTooLong s = true ↔ s.pbLen.toNat ≤ s.params.pbCap.val :=
  payloadTooLong_eq_true.not.trans not_lt

theorem execSEncode_fault {sub : Bool} {s : State} : Faults (execSEncode sub s) ↔
    sub = true ∧ s.xport = .stream ∧ s.pbLen.toNat ≤ s.params.pbCap.val ∧ s.pbLen.toNat ≤ 254 ∧ payload s = none := by
  have hmax : ¬ 255 < 1 + s.pbLen.toNat ↔ s.pbLen.toNat ≤ 254 := by omega
  cases sub with
  | false =>
    simp only [execSEncode, faults_check, if_true]
    simp
  | true =>
    simp only [execSEncode, Bool.true_eq_false, if_false, faults_check, not_payloadTooLong, hmax, not_not, true_and]
    cases payload s <;> simp

theorem execBEncode_fault {s : State} : Faults (execBEncode s) ↔
    s.xport = .bus ∧ s.pbLen.toNat ≤ s.params.pbCap.val ∧ s.pbLen.toNat % 2 = 0 ∧ payload s = none := by
  simp only [execBEncode, faults_check, not_payloadTooLong, not_not]
  cases payload s <;> simp

theorem execCksum_fault {s : State} : Faults (execCksum s) ↔
    s.pbLen.toNat ≤ s.params.pbCap.val ∧ payload s = none := by
  simp only [execCksum, faults_check, not_payloadTooLong]
  cases payload s <;> simp

theorem execCrc8_fault {s : State} : Faults (execCrc8 s) ↔
    s.pbLen.toNat ≤ s.params.pbCap.val ∧ payload s = none := by
  simp only [execCrc8, faults_check, not_payloadTooLong]
  cases payload s <;> simp

/-- Only a command that reads PB can fault, and it does where a byte of its payload is missing. -/
theorem exec_fault {i : Instr} {s : State} : Faults (exec i s) ↔
    s.pbLen.toNat ≤ s.params.pbCap.val ∧ payload s = none ∧ ReadsPayload s i := by
  unfold ReadsPayload
  cases i with
  | sEncode sub => refine execSEncode_fault.trans ?_; simp; tauto
  | bEncode => refine execBEncode_fault.trans ?_; simp; tauto
  | cksum => refine execCksum_fault.trans ?_; simp
  | crc8 => refine execCrc8_fault.trans ?_; simp
  | sSend | sRecv | bSend | bRecv =>
    simp only [exec, execSSend, execSRecv, execBSend, execBRecv, faults_check]
    simp
  | stuff | unstuff => simp [exec, execStuff, execUnstuff]

theorem writeCmd_fault {v : Word} {s : State} : Faults (writeCmd v s) ↔
    s.phase = .idle ∧ ∃ i, decode v = .ok i ∧ Faults (exec i s) := by
  unfold writeCmd
  rw [faults_check, busy_eq_true, not_not]
  cases decode v <;> simp

theorem writeTarget_fault {t : Target} {v : Word} {s : State} :
    Faults (writeTarget t v s) ↔ t = .reg .cmd ∧ Faults (writeCmd v s) := by
  unfold writeTarget
  split
  · simp
  · rename_i r hr
    simp [show ¬ r = .cmd from hr]
  · simp
  · simp

/-- CMD stands at its offset and nowhere else (20 R201). -/
theorem target_eq_cmd {p : Params} {off : Offset} (h4 : off.toNat % 4 = 0) :
    target p off = .reg .cmd ↔ off = 0x0008 := by
  refine ⟨fun h => ?_, fun h => h ▸ rfl⟩
  obtain ⟨r, hr, hoff⟩ | ⟨b, i, hb, -⟩ | hu := target_inv (p := p) h4
  · cases h.symm.trans hr
    exact BitVec.eq_of_toNat_eq hoff
  · exact absurd (h.symm.trans hb) nofun
  · exact absurd (h.symm.trans hu) nofun

theorem hostWrite_fault {size : AccessSize} {off : Offset} {v : Word} {s : State} :
    Faults (hostWrite size off v s) ↔
      size = .word ∧ off = 0x0008 ∧ Faults (writeCmd v (newEpoch s)) := by
  unfold hostWrite
  split
  · rename_i hs
    simp only [supported, Bool.and_eq_true, decide_eq_true_eq] at hs
    obtain ⟨hsize, h4⟩ := hs
    rw [writeTarget_fault, target_eq_cmd h4]
    simp [hsize]
  · rename_i hs
    refine ⟨nofun, ?_⟩
    rintro ⟨rfl, rfl, -⟩
    exact absurd rfl hs

theorem react_fault {i : Input} {s : State} : Faults (react i s) ↔
    ∃ v, i = .hostWrite .word 0x0008 v ∧ Faults (writeCmd v (newEpoch s)) := by
  cases i with
  | hostWrite size off v => refine hostWrite_fault.trans ?_; simp; tauto
  | hostRead size off =>
    simp only [react, hostRead]
    split <;> simp
  | txAccept | rxArrive | rxTake | busDone | busData | tick | reset => exact ⟨nofun, nofun⟩

theorem react_fault_iff {i : Input} {s : State} : Faults (react i s) ↔
    s.phase = .idle ∧ s.pbLen.toNat ≤ s.params.pbCap.val ∧ (∃ j, j < s.pbLen.toNat ∧ written s .pb j = false) ∧
      ∃ v, i = .hostWrite .word 0x0008 v ∧ ∃ j, decode v = .ok j ∧ ReadsPayload s j := by
  simp only [react_fault, writeCmd_fault, exec_fault, payload_none]
  constructor
  · rintro ⟨v, hi, hidle, j, hj, hcap, hmissing, hreads⟩
    exact ⟨hidle, hcap, hmissing, v, hi, j, hj, hreads⟩
  · rintro ⟨hidle, hcap, hmissing, v, hi, j, hj, hreads⟩
    exact ⟨v, hi, hidle, j, hj, hcap, hmissing, hreads⟩

theorem decode_readsPayload {v : Word} {s : State} : (∃ i, decode v = .ok i ∧ ReadsPayload s i) ↔
    (decode v = .ok (.sEncode true) ∧ s.xport = .stream ∧ s.pbLen.toNat ≤ 254 ∨
      decode v = .ok .bEncode ∧ s.xport = .bus ∧ s.pbLen.toNat % 2 = 0 ∨
      decode v = .ok .cksum ∨ decode v = .ok .crc8) := by
  simp only [ReadsPayload, and_or_left, exists_or, ← and_assoc, exists_and_right, exists_eq_right]

/-- Settles O51: only a write to CMD can fault, and it does where its command reads a missing PB byte, after the checks
that end in PARAM. -/
theorem faultIsUnwrittenPayload : Obligations.FaultIsUnwrittenPayload := by
  intro s
  obtain ⟨ins, n, hstep⟩ := step_eq s
  simp only [← decode_readsPayload, hstep]
  exact react_fault_iff

/-! Reset, R700, and events that are not enabled -/

/-- Settles O16: by the fields of the reset state; a late answer of the bus meets a block that does not wait for it. -/
theorem resetInput : Obligations.ResetInput := by
  refine ⟨fun s => ⟨resetStep s, rfl, ?_⟩,
    fun u status h => congrArg Host.Outcome.next (busDoneStep_not_busWr status h),
    fun u d h => congrArg Host.Outcome.next (busDataStep_not_busRd d h)⟩
  exact ⟨rfl, rfl, rfl, rfl, rfl, rfl, rfl, rfl, rfl, rfl, rfl, rfl, rfl, rfl, rfl, rfl, rfl, rfl, rfl, rfl,
    fun _ _ => rfl, rfl, rfl, rfl⟩

theorem rxTakeStep_disabled {s : State} (h : s.phase ≠ .rx ∨ s.rxst = .done ∨ s.rxst = .error ∨ s.rxQueue = []) :
    rxTakeStep s = s := by
  obtain hkeep | ⟨b, q, hphase, hopen, hq, -⟩ := rxTakeStep_cases s
  · exact hkeep
  · obtain h | h | h | h := h
    · exact absurd hphase h
    · exact absurd hopen (by simp [rxOpen, h])
    · exact absurd hopen (by simp [rxOpen, h])
    · exact absurd (h.symm.trans hq) nofun

theorem tickStep_disabled {s : State} (h : s.phase ∈ [Phase.idle, .tx, .busWr, .busRd]) : tickStep s = s := by
  unfold tickStep
  split
  · exact absurd (‹s.phase = Phase.settle› ▸ h) (by decide)
  · exact absurd (‹s.phase = Phase.rx› ▸ h) (by decide)
  all_goals rfl

/-- Settles O34: each event by the phase that enables it. -/
theorem eventsActOnlyWhenEnabled : Obligations.EventsActOnlyWhenEnabled := by
  intro s
  refine ⟨fun h => congrArg Host.Outcome.next (rxTakeStep_disabled h), fun b q hphase hrxst hq => ?_,
    fun h => congrArg Host.Outcome.next (txAcceptStep_not_tx h),
    fun h => congrArg Host.Outcome.next (tickStep_disabled h)⟩
  have hopen : rxOpen s = true := rxOpen_eq_true.mpr hrxst
  exact ⟨_, s.epoch + 1, congrArg Host.Outcome.next (rxTakeStep_takes hphase hopen hq), rfl, by rw [rxByte_frame]; rfl⟩

end Sys2Proof.Machine
end

section
/-! PROOFS. The registers and buffers as the host reads and writes them (10_state.md sections 2, 3 and 5, 20_memory.md):
the fields of a word are digits of its number, so each is read by arithmetic. -/

namespace Sys2Proof.Machine

/-! Fields of a word -/

/-- A field put above the bits of the rest of the word adds its value at its place. -/
theorem toNat_or_shiftLeft {x y : Word} {a b : Nat} (k : Nat) (hx : x.toNat = a) (hy : y.toNat = b) (ha : a < 2 ^ k)
    (hb : b * 2 ^ k < 2 ^ 32) : (x ||| y <<< k).toNat = a + b * 2 ^ k := by
  subst hx hy
  rw [BitVec.toNat_or, BitVec.toNat_shiftLeft, Nat.shiftLeft_eq, Nat.mod_eq_of_lt hb, Nat.or_comm, Nat.mul_comm,
    ← Nat.two_pow_add_eq_or_of_lt ha, Nat.add_comm]

theorem extractLsb'_eq {w : Word} {n i : Nat} {y : BitVec n} (h : w.toNat / 2 ^ i % 2 ^ n = y.toNat) :
    w.extractLsb' i n = y := by
  apply BitVec.eq_of_toNat_eq
  rw [BitVec.extractLsb'_toNat, Nat.shiftRight_eq_div_pow, h]

theorem getLsbD_eq {w : Word} {i : Nat} {b : Bool} (h : w.toNat / 2 ^ i % 2 = b.toNat) : w.getLsbD i = b := by
  rw [BitVec.getLsbD, Nat.testBit_eq_decide_div_mod_eq, h]
  cases b <;> rfl

theorem flagBit_toNat (b : Bool) : (flagBit b).toNat = b.toNat := by
  cases b <;> rfl

theorem extractLsb'_eq_zero {w : Word} {n i : Nat} (h : w.toNat / 2 ^ i % 2 ^ n = 0) : w.extractLsb' i n = 0 :=
  extractLsb'_eq (h.trans BitVec.toNat_zero.symm)

theorem getLsbD_eq_false {w : Word} {i : Nat} (h : w.toNat / 2 ^ i % 2 = 0) : w.getLsbD i = false :=
  getLsbD_eq h

theorem zeroExtend_toNat {n : Nat} (y : BitVec n) (h : n ≤ 32) : (y.setWidth 32).toNat = y.toNat :=
  BitVec.toNat_setWidth_of_le h

/-- The number of a CLASS (60 R601). -/
def classNumber : ResultClass → BitVec 3
  | .ok => 0 | .param => 1 | .dataLen => 2 | .protocol => 3 | .timeout => 4 | .cmdState => 5 | .devStatus => 6

theorem classCode_toNat (c : ResultClass) : (classCode c).toNat = (classNumber c).toNat := by
  cases c <;> rfl

/-- The number of an RXST (10 R121). -/
def rxstNumber : RxState → BitVec 3
  | .awaitDelim => 0 | .inBody => 1 | .escape => 2 | .done => 3 | .error => 4

theorem rxstCode_toNat (r : RxState) : (rxstCode r).toNat = (rxstNumber r).toNat := by
  cases r <;> rfl

/-- The number of a PHASE (10 R120). -/
def phaseNumber : Phase → BitVec 3
  | .idle => 0 | .tx => 1 | .settle => 2 | .rx => 3 | .busWr => 4 | .busRd => 5

theorem phaseCode_toNat (p : Phase) : (phaseCode p).toNat = (phaseNumber p).toNat := by
  cases p <;> rfl

theorem resultWord_toNat (r : Result) : (resultWord r).toNat =
    (classNumber r.cls).toNat + r.devCode.toNat * 2 ^ 8 + r.devErr.toNat * 2 ^ 15 := by
  have hcls := (classNumber r.cls).isLt
  have hcode := r.devCode.isLt
  have herr := r.devErr.toNat_le
  have hlow := toNat_or_shiftLeft 8 (classCode_toNat r.cls) (zeroExtend_toNat r.devCode (by decide)) (by omega)
    (by omega)
  exact toNat_or_shiftLeft 15 hlow (flagBit_toNat r.devErr) (by omega) (by omega)

theorem statusWord_toNat (s : State) : (statusWord s).toNat = s.busy.toNat + s.done.toNat * 2 ^ 1 +
    s.rej.toNat * 2 ^ 2 + (rxstNumber s.rxst).toNat * 2 ^ 4 + (phaseNumber s.phase).toNat * 2 ^ 8 := by
  have hbusy := s.busy.toNat_le
  have hdone := s.done.toNat_le
  have hrej := s.rej.toNat_le
  have hrxst := (rxstNumber s.rxst).isLt
  have hphase := (phaseNumber s.phase).isLt
  have h1 := toNat_or_shiftLeft 1 (flagBit_toNat s.busy) (flagBit_toNat s.done) (by omega) (by omega)
  have h2 := toNat_or_shiftLeft 2 h1 (flagBit_toNat s.rej) (by omega) (by omega)
  have h4 := toNat_or_shiftLeft 4 h2 (rxstCode_toNat s.rxst) (by omega) (by omega)
  exact toNat_or_shiftLeft 8 h4 (phaseCode_toNat s.phase) (by omega) (by omega)

theorem primOutWord_toNat (p : PrimOut) : (primOutWord p).toNat =
    p.cnt.toNat + p.o0.toNat * 2 ^ 8 + p.o1.toNat * 2 ^ 16 := by
  have hcnt := p.cnt.isLt
  have ho0 := p.o0.isLt
  have ho1 := p.o1.isLt
  have hlow := toNat_or_shiftLeft 8 (zeroExtend_toNat p.cnt (by decide)) (zeroExtend_toNat p.o0 (by decide))
    (by omega) (by omega)
  exact toNat_or_shiftLeft 16 hlow (zeroExtend_toNat p.o1 (by decide)) (by omega) (by omega)

theorem statusWord_fields (s : State) :
    ((statusWord s).getLsbD 0 = true ↔ s.phase ≠ .idle) ∧ (statusWord s).getLsbD 1 = s.done ∧
    (statusWord s).getLsbD 2 = s.rej ∧ (statusWord s).getLsbD 3 = false ∧
    (statusWord s).extractLsb' 4 3 = rxstNumber s.rxst ∧ (statusWord s).getLsbD 7 = false ∧
    (statusWord s).extractLsb' 8 3 = phaseNumber s.phase ∧ (statusWord s).extractLsb' 11 21 = 0 := by
  have hw := statusWord_toNat s
  have hbusy := s.busy.toNat_le
  have hdone := s.done.toNat_le
  have hrej := s.rej.toNat_le
  have hrxst := (rxstNumber s.rxst).isLt
  have hphase := (phaseNumber s.phase).isLt
  have hbit : (statusWord s).getLsbD 0 = s.busy := getLsbD_eq (by omega)
  exact ⟨hbit ▸ busy_eq_true, getLsbD_eq (by omega), getLsbD_eq (by omega), getLsbD_eq_false (by omega),
    extractLsb'_eq (by omega), getLsbD_eq_false (by omega), extractLsb'_eq (by omega), extractLsb'_eq_zero (by omega)⟩

theorem resultWord_fields (r : Result) : (resultWord r).extractLsb' 0 3 = classNumber r.cls ∧
    (resultWord r).extractLsb' 3 5 = 0 ∧ (resultWord r).extractLsb' 8 7 = r.devCode ∧
    (resultWord r).getLsbD 15 = r.devErr ∧ (resultWord r).extractLsb' 16 16 = 0 := by
  have hw := resultWord_toNat r
  have hcls := (classNumber r.cls).isLt
  have hcode := r.devCode.isLt
  have herr := r.devErr.toNat_le
  exact ⟨extractLsb'_eq (by omega), extractLsb'_eq_zero (by omega), extractLsb'_eq (by omega), getLsbD_eq (by omega),
    extractLsb'_eq_zero (by omega)⟩

theorem primOutWord_fields (p : PrimOut) : (primOutWord p).extractLsb' 0 2 = p.cnt ∧
    (primOutWord p).extractLsb' 2 6 = 0 ∧ (primOutWord p).extractLsb' 8 8 = p.o0 ∧
    (primOutWord p).extractLsb' 16 8 = p.o1 ∧ (primOutWord p).extractLsb' 24 8 = 0 := by
  have hw := primOutWord_toNat p
  have hcnt := p.cnt.isLt
  have ho0 := p.o0.isLt
  have ho1 := p.o1.isLt
  exact ⟨extractLsb'_eq (by omega), extractLsb'_eq_zero (by omega), extractLsb'_eq (by omega),
    extractLsb'_eq (by omega), extractLsb'_eq_zero (by omega)⟩

/-- SCMD and PRIM_IN hold two bytes (10 R106, R112). -/
def twoBytes (a b : Byte) : Word := a.setWidth 32 ||| b.setWidth 32 <<< 8

theorem twoBytes_toNat (a b : Byte) : (twoBytes a b).toNat = a.toNat + b.toNat * 2 ^ 8 := by
  have ha := a.isLt
  have hb := b.isLt
  exact toNat_or_shiftLeft 8 (zeroExtend_toNat a (by decide)) (zeroExtend_toNat b (by decide)) (by omega) (by omega)

theorem twoBytes_fields (a b : Byte) : (twoBytes a b).extractLsb' 0 8 = a ∧ (twoBytes a b).extractLsb' 8 8 = b ∧
    (twoBytes a b).extractLsb' 16 16 = 0 := by
  have hw := twoBytes_toNat a b
  have ha := a.isLt
  have hb := b.isLt
  exact ⟨extractLsb'_eq (by omega), extractLsb'_eq (by omega), extractLsb'_eq_zero (by omega)⟩

/-- The low bits of a word, kept by a mask. -/
theorem toNat_and_mask (v : Word) {n : Nat} (hn : n ≤ 32) :
    (v &&& BitVec.ofNat 32 (2 ^ n - 1)).toNat = v.toNat % 2 ^ n := by
  have hmask : 2 ^ n - 1 < 2 ^ 32 := by
    have := Nat.pow_le_pow_right (n := 2) (by decide) hn
    omega
  rw [BitVec.toNat_and, BitVec.toNat_ofNat, Nat.mod_eq_of_lt hmask, Nat.and_two_pow_sub_one_eq_mod]

theorem twoBytes_of_word (v : Word) : twoBytes (v.extractLsb' 0 8) (v.extractLsb' 8 8) = v &&& 0x0000FFFF := by
  apply BitVec.eq_of_toNat_eq
  refine Eq.trans ?_ (toNat_and_mask v (n := 16) (by decide)).symm
  rw [twoBytes_toNat, BitVec.extractLsb'_toNat, BitVec.extractLsb'_toNat, Nat.shiftRight_eq_div_pow,
    Nat.shiftRight_eq_div_pow]
  omega

theorem zeroExtend_of_word (v : Word) {n : Nat} (hn : n ≤ 32) :
    (v.extractLsb' 0 n).setWidth 32 = v &&& BitVec.ofNat 32 (2 ^ n - 1) := by
  apply BitVec.eq_of_toNat_eq
  rw [zeroExtend_toNat _ hn, BitVec.extractLsb'_toNat, toNat_and_mask v hn, Nat.shiftRight_zero]

/-! Reads, 20 R205 -/

theorem supported_of_react_read {s t : State} {size : AccessSize} {off : Offset}
    (h : react (.hostRead size off) s = .next t) : supported size off = true := by
  by_contra hs
  exact absurd ((if_neg hs).symm.trans h) nofun

theorem aligned_of_react_read {s t : State} {size : AccessSize} {off : Offset}
    (h : react (.hostRead size off) s = .next t) : off.toNat % 4 = 0 := by
  have hs := supported_of_react_read h
  simp only [supported, Bool.and_eq_true, decide_eq_true_eq] at hs
  exact hs.right

/-- Settles O7: a supported read stores the value, and the value does not depend on what was read before. -/
theorem hostReadHasNoSideEffect : Obligations.HostReadHasNoSideEffect := by
  intro s t size off h
  rw [hostRead_cases h]
  exact ⟨rfl, if_pos (supported_of_react_read h)⟩

theorem target_reg (p : Params) (r : Reg) : target p (BitVec.ofNat 16 r.offset) = .reg r := by
  cases r <;> rfl

theorem aligned_reg (r : Reg) : (BitVec.ofNat 16 r.offset).toNat % 4 = 0 := by
  cases r <;> rfl

/-- In an idle block every register reads its settled value; while BUSY all but the four of R721 do. -/
theorem react_read_reg {s : State} (r : Reg) (h : s.phase = .idle ∨ unspecifiedBusy r = false) :
    react (.hostRead .word (BitVec.ofNat 16 r.offset)) s = .next { s with hostData := regWord s r } := by
  have hfree : (s.busy && unspecifiedBusy r) = false := by
    rw [Bool.and_eq_false_iff, busy_eq_false]
    exact h
  rw [react_read (aligned_reg r), readValue, target_reg]
  simp only [readReg, hfree]
  rfl

/-- Settles O8: STATUS by the digits of its word; a write to it only clears REJ. -/
theorem statusFieldsAndWrite : Obligations.StatusFieldsAndWrite := by
  refine ⟨fun s => ⟨statusWord s, react_read_reg .status (.inr rfl), ?_⟩, fun s v => ⟨_, react_status_write s v⟩⟩
  obtain ⟨hbusy, hdone, hrej, h3, hrxst, h7, hphase, h11⟩ := statusWord_fields s
  exact ⟨hbusy, hdone, hrej, h3, hrxst, h7, hphase, h11⟩

/-- Settles O17: each register's word at its reset value. -/
theorem registersReadZeroAtReset : Obligations.RegistersReadZeroAtReset := by
  intro off hoff
  obtain ⟨r, -, rfl⟩ := List.mem_map.mp (show off ∈ allRegs.map fun r => BitVec.ofNat 16 r.offset from hoff)
  have hzero : regWord State.reset r = 0 := by cases r <;> rfl
  rw [react_read_reg r (.inl rfl), hzero]

theorem aligned_byte {b : Buf} {i : Nat} {off : Offset} (h : off.toNat = b.addr i) : off.toNat % 4 = 0 := by
  rw [h]
  cases b <;> simp only [Buf.addr, Buf.base] <;> omega

/-- A written byte that is meaningful reads as its value, zero-extended. -/
theorem react_read_byte {s : State} {b : Buf} {i : Nat} {off : Offset} {v : Byte} (hi : i < b.cap s.params)
    (hoff : off.toNat = b.addr i) (hmeaning : meaningful s b i = true) (hv : s.mem.read off.toNat = some v) :
    react (.hostRead .word off) s = .next { s with hostData := v.setWidth 32 } := by
  rw [react_read (aligned_byte hoff), readValue, target_byte hi hoff]
  simp only [readByte, hmeaning, if_true, byteOf, ← hoff, hv, Option.getD_some]

/-- Below its length register a byte of an idle block's windows is meaningful (10 R116 to R118). -/
theorem meaningful_idle {s : State} {i : Nat} (hidle : s.phase = .idle) :
    (i < s.wbLen.toNat → meaningful s .wb i = true) ∧ (i < s.ibLen.toNat → meaningful s .ib i = true) ∧
    (i < s.rbLen.toNat → meaningful s .rb i = true) := by
  simp [meaningful, busy_eq_false.mpr hidle]

theorem react_read_window {s : State} {off : Offset} {i : Nat} {b : Byte} (hidle : s.phase = .idle)
    (hread : s.mem.read off.toNat = some b)
    (hoff : off.toNat = 0x4000 + 4 * i ∧ i < s.wbLen.toNat ∧ i < s.params.wbCap ∨
      off.toNat = 0x6000 + 4 * i ∧ i < s.ibLen.toNat ∧ i < s.params.ibCap.val ∨
      off.toNat = 0x8000 + 4 * i ∧ i < s.rbLen.toNat ∧ i < s.params.rbCap) :
    react (.hostRead .word off) s = .next { s with hostData := b.setWidth 32 } := by
  obtain ⟨hwb, hib, hrb⟩ := meaningful_idle (i := i) hidle
  obtain ⟨hoff, hlen, hcap⟩ | ⟨hoff, hlen, hcap⟩ | ⟨hoff, hlen, hcap⟩ := hoff
  · exact react_read_byte (b := .wb) hcap hoff (hwb hlen) hread
  · exact react_read_byte (b := .ib) hcap hoff (hib hlen) hread
  · exact react_read_byte (b := .rb) hcap hoff (hrb hlen) hread

/-! Writes that are ignored, 20 R201 -/

theorem writeTarget_readOnly {s : State} {r : Reg} (v : Word)
    (hr : r ∈ [.result, .wbLen, .ibLen, .rbLen, .primOut, .chk]) : writeTarget (.reg r) v s = .next s := by
  cases r
  case result | wbLen | ibLen | rbLen | primOut | chk => rfl
  all_goals exact absurd hr (by decide)

/-- In the windows of WB, IB and RB stands a byte of theirs, or nothing. -/
theorem target_window {p : Params} {off : Offset} (h4 : off.toNat % 4 = 0) (hlow : 0x4000 ≤ off.toNat)
    (hhigh : off.toNat < 0xA000) : (∃ b i, b ≠ .pb ∧ target p off = .byte b i) ∨ target p off = .unmapped := by
  obtain ⟨r, -, hoff⟩ | ⟨b, i, hb, hi, hoff⟩ | hu := target_inv (p := p) h4
  · cases r <;> simp only [Reg.offset] at hoff <;> omega
  · refine .inl ⟨b, i, ?_, hb⟩
    rintro rfl
    have hcap := hi.trans_le (Buf.cap_le p .pb)
    simp only [Buf.addr, Buf.base] at hoff
    omega
  · exact .inr hu

theorem writeByte_readOnly {s : State} {b : Buf} (i : Nat) (v : Word) (h : b ≠ .pb) : writeByte b i v s = s := by
  cases b
  case pb => exact absurd rfl h
  all_goals rfl

/-- Settles O14: each register's word by its digits, the windows byte by byte, and no write to them has an effect. -/
theorem readOnlyRegisters : Obligations.ReadOnlyRegisters := by
  refine ⟨fun s hidle => ⟨⟨_, react_read_reg .result (.inl hidle), resultWord_fields s.result⟩,
    react_read_reg .wbLen (.inl hidle), react_read_reg .ibLen (.inl hidle), react_read_reg .rbLen (.inl hidle),
    ⟨_, react_read_reg .primOut (.inl hidle), primOutWord_fields s.primOut⟩, react_read_reg .chk (.inl hidle),
    react_read_reg .cmd (.inl hidle), fun off i b hread hoff => react_read_window hidle hread hoff⟩,
    fun s v off hoff => ⟨s.epoch + 1, ?_⟩⟩
  obtain hreg | ⟨h4, hlow, hhigh⟩ := hoff
  · obtain ⟨r, hr, rfl⟩ := List.mem_map.mp (show off ∈ [Reg.result, .wbLen, .ibLen, .rbLen, .primOut, .chk].map
      fun r => BitVec.ofNat 16 r.offset from hreg)
    rw [react_write (aligned_reg r), target_reg]
    exact writeTarget_readOnly v hr
  · rw [react_write h4]
    obtain ⟨b, i, hb, htarget⟩ | htarget := target_window (p := s.params) h4 hlow hhigh <;> rw [htarget]
    · exact congrArg Host.Outcome.next (writeByte_readOnly i v hb)
    · rfl

/-! Reads while BUSY, 70 R721 -/

theorem zeroExtend_and_mask (b : Byte) : b.setWidth 32 &&& 0xFF = b.setWidth 32 := by
  apply BitVec.eq_of_toNat_eq
  refine (toNat_and_mask (b.setWidth 32) (n := 8) (by decide)).trans ?_
  rw [zeroExtend_toNat b (by decide)]
  exact Nat.mod_eq_of_lt b.isLt

theorem zeroExtend_high (b : Byte) : b.setWidth 32 &&& 0xFFFFFF00 = 0 := by
  rw [← zeroExtend_and_mask b, BitVec.and_assoc]
  exact BitVec.and_zero

theorem readValue_busy {s : State} (r : Reg) (hbusy : s.phase ≠ .idle) (hr : unspecifiedBusy r = true) :
    readValue s (BitVec.ofNat 16 r.offset) = Config.freeWord s.epoch r.offset &&& busyMask r := by
  rw [readValue, target_reg]
  simp [readReg, busy_eq_true.mpr hbusy, hr]

/-- The free value of a register has its reserved bits 0. -/
theorem readValue_busy_reserved {s : State} {m : Word} (r : Reg) (hbusy : s.phase ≠ .idle)
    (hr : unspecifiedBusy r = true) (hm : busyMask r &&& m = 0) :
    readValue s (BitVec.ofNat 16 r.offset) &&& m = 0 := by
  rw [readValue_busy r hbusy hr, BitVec.and_assoc, hm]
  exact BitVec.and_zero

theorem readValue_window {s : State} {off : Offset} (h4 : off.toNat % 4 = 0) (hlow : 0x4000 ≤ off.toNat)
    (hhigh : off.toNat < 0xA000) : readValue s off &&& 0xFFFFFF00 = 0 := by
  obtain ⟨b, i, -, htarget⟩ | htarget := target_window (p := s.params) h4 hlow hhigh <;> rw [readValue, htarget]
  · exact zeroExtend_high _
  · exact BitVec.zero_and

/-- Settles O15: the free values by their masks, the other registers as in an idle block, PB by its written bytes. -/
theorem readsWhileBusy : Obligations.ReadsWhileBusy := by
  refine ⟨fun s t off hbusy h => ?_, fun s hbusy => ⟨react_read_reg .ctrl (.inr rfl),
    ⟨_, react_read_reg .scmd (.inr rfl), twoBytes_fields s.lead s.subc⟩, react_read_reg .regAddr (.inr rfl),
    react_read_reg .pbLen (.inr rfl), ⟨_, react_read_reg .primIn (.inr rfl), twoBytes_fields s.primIn0 s.primIn1⟩,
    ⟨_, react_read_reg .primOut (.inr rfl), primOutWord_fields s.primOut⟩, react_read_reg .chk (.inr rfl),
    fun off i b hoff hi hread => react_read_byte (b := .pb) hi hoff rfl hread⟩⟩
  have h4 := aligned_of_react_read h
  rw [hostRead_cases h]
  refine ⟨?_, fun hoff => ?_, fun hlow hhigh => readValue_window h4 hlow hhigh⟩
  · rintro rfl
    exact readValue_busy_reserved .result hbusy rfl rfl
  · simp only [List.mem_cons, List.not_mem_nil, or_false] at hoff
    obtain rfl | rfl | rfl := hoff
    · exact readValue_busy_reserved .wbLen hbusy rfl rfl
    · exact readValue_busy_reserved .ibLen hbusy rfl rfl
    · exact readValue_busy_reserved .rbLen hbusy rfl rfl

/-! Writes that are read back, 10 R106 to R108, R112, R115 -/

/-- The registers whose fields the host writes and the block never does. -/
def operandRegs : List Reg := [.scmd, .regAddr, .pbLen, .primIn]

/-- An idle write to an operand register stores the fields of the word, and the register then reads as that word
with its reserved bits 0. -/
theorem writeReg_operand {s : State} {r : Reg} (v : Word) (hr : r ∈ operandRegs) (hidle : s.phase = .idle) :
    (writeReg r v s).phase = .idle ∧ regWord (writeReg r v s) r = v &&& 0x0000FFFF := by
  cases r
  case scmd | primIn =>
    simp only [writeReg, guarded_idle hidle]
    exact ⟨hidle, twoBytes_of_word v⟩
  case regAddr | pbLen =>
    simp only [writeReg, guarded_idle hidle]
    exact ⟨hidle, zeroExtend_of_word v (n := 16) (by decide)⟩
  all_goals exact absurd hr (by decide)

theorem react_write_operand {s : State} {r : Reg} (v : Word) (hr : r ∈ operandRegs) :
    react (.hostWrite .word (BitVec.ofNat 16 r.offset) v) s = .next (writeReg r v (newEpoch s)) := by
  rw [react_write (aligned_reg r), target_reg]
  cases r
  case cmd => exact absurd hr (by decide)
  all_goals rfl

/-- Settles O11: each operand register's write, what is then read, and that a command's frame leaves them out. -/
theorem operandRegistersHoldWrites : Obligations.OperandRegistersHoldWrites := by
  refine ⟨fun s v hidle => ?_, fun s t u v off hidle hoff hwrite hread => ?_, fun s t i h => ?_⟩
  · refine ⟨⟨s.epoch + 1, (react_write_operand (r := .scmd) v (by decide)).trans ?_⟩,
      ⟨s.epoch + 1, (react_write_operand (r := .regAddr) v (by decide)).trans ?_⟩,
      ⟨s.epoch + 1, (react_write_operand (r := .pbLen) v (by decide)).trans ?_⟩,
      ⟨s.epoch + 1, (react_write_operand (r := .primIn) v (by decide)).trans ?_⟩⟩
    all_goals
      simp only [writeReg, guarded_idle (s := newEpoch s) hidle]
      rfl
  · obtain ⟨r, hr, rfl⟩ := List.mem_map.mp (show off ∈ operandRegs.map fun r => BitVec.ofNat 16 r.offset from hoff)
    cases (react_write_operand v hr).symm.trans hwrite
    obtain ⟨hphase, hword⟩ := writeReg_operand (s := newEpoch s) v hr hidle
    cases (react_read_reg r (.inl hphase)).symm.trans hread
    exact hword
  · rw [exec_frame h]
    exact ⟨rfl, rfl, rfl, rfl, rfl, rfl⟩

/-- Settles O12: the idle write reaches its byte alone, and the read returns it. -/
theorem payloadByteHoldsWrite : Obligations.PayloadByteHoldsWrite := by
  intro s i v hidle hi
  have hcap := s.params.pbCap.isLt
  have hoff : (BitVec.ofNat 16 (0x2000 + 4 * i)).toNat = Buf.pb.addr i := by
    rw [BitVec.toNat_ofNat]
    exact Nat.mod_eq_of_lt (by omega)
  have hwrite : react (.hostWrite .word (BitVec.ofNat 16 (0x2000 + 4 * i)) v) s =
      .next { newEpoch s with mem := s.mem.write (Buf.pb.addr i) (v.extractLsb' 0 8) } := by
    rw [react_write (aligned_byte hoff), target_byte (b := .pb) hi hoff]
    simp only [writeTarget, writeByte, guarded_idle (s := newEpoch s) hidle]
    rfl
  refine ⟨_, hwrite, rfl, Memory.read_write_same _ _ _, fun a ha => Memory.read_write_other _ _ ha, ?_⟩
  rw [← show (v.extractLsb' 0 8).setWidth 32 = v &&& 0xFF from zeroExtend_of_word v (n := 8) (by decide)]
  exact react_read_byte (b := .pb) hi hoff rfl (hoff ▸ Memory.read_write_same _ _ _)

/-! The host protocol, 60 R652, R654 -/

/-- Settles O60: the wrapper's own case distinction. -/
theorem gatedWrapperResults : Obligations.GatedWrapperResults := by
  intro stop inner restart
  refine ⟨rfl, fun hstop => ?_, fun hstop hinner => ?_, fun hstop hinner hrestart => ?_,
    fun hstop hinner hrestart => ?_⟩
  · simp [gated, hstop]
  · simp [gated, hstop, hinner]
  · simp [gated, hstop, hinner, hrestart]
  · simp [gated, hstop, hinner, hrestart]

end Sys2Proof.Machine
end
